-- ==== Sys2Proof/Word.lean ====
section
/-! DEFINITION. The word types of the AES-GCM engine (spec/00_scope.md R7, R10). Byte order and
every other reading of a word stand in Machine/Bytes.lean. -/

namespace Sys2Proof

/-- A byte (R10). -/
abbrev Byte := BitVec 8

/-- A block of 16 bytes, held as the integer be(B): byte 0 is bits 127..120 (R10, R43). -/
abbrev Block := BitVec 128

/-- A word of the key schedule, 4 bytes, byte 0 in bits 31..24 (R81). -/
abbrev Word32 := BitVec 32

/-- A 12-byte nonce, byte 0 in bits 95..88 (R7, R112). -/
abbrev Nonce := BitVec 96

/-- A command header or a response header (R61, R66). -/
abbrev Header := BitVec 64

end Sys2Proof
end

