-- ==== Sys2Proof/Machine/Bytes.lean ====
section
/-! DEFINITION. Bytes, blocks and integers (spec/00_scope.md R10, spec/20_memory.md R42, R43): every
reading of a byte string as an integer and back is big-endian and is made here. -/

namespace Sys2Proof.Machine

/-- `be(s)`: the unsigned integer a byte string spells, most significant byte first (R10). -/
def beNat (s : List Byte) : Nat :=
  s.foldl (fun n b => 256 * n + b.toNat) 0

/-- `BE_8n(v)`: the integer `v` as `n` bytes, most significant byte first (R10). -/
def beBytes : (n : Nat) → (v : Nat) → List Byte
  | 0, _ => []
  | n + 1, v => BitVec.ofNat 8 (v / 256 ^ n) :: beBytes n v

/-- The 16 bytes of a block, byte 0 first (R10, R43). -/
def blockBytes (b : Block) : List Byte := beBytes 16 b.toNat

/-- The block a string of 16 bytes spells (R10, R43). -/
def blockOfBytes (s : List Byte) : Block := BitVec.ofNat 128 (beNat s)

/-- Byte `i` of a block, 0 ≤ i ≤ 15 (R10). -/
def byteAt (b : Block) (i : Nat) : Byte := BitVec.ofNat 8 (b.toNat / 256 ^ (15 - i))

/-- The block whose byte `i` is `v` and whose other bytes are those of `b`. -/
def setByteAt (b : Block) (i : Nat) (v : Byte) : Block :=
  blockOfBytes ((blockBytes b).set i v)

/-- At most 16 bytes as a block, zero bytes on the right (R133). -/
def padBlock (s : List Byte) : Block :=
  blockOfBytes (s ++ List.replicate (16 - s.length) 0)

/-- The first `n` blocks of a byte string, the last one zero-padded if the string ends inside it. -/
def chunkBlocks : (n : Nat) → (s : List Byte) → List Block
  | 0, _ => []
  | n + 1, s => padBlock (s.take 16) :: chunkBlocks n (s.drop 16)

/-- ⌈n / 16⌉, the number of blocks that `n` bytes start. -/
def blockCount (n : Nat) : Nat := (n + 15) / 16

/-- A byte string cut into blocks, the last one zero-padded (R133). -/
def blocksOfBytes (s : List Byte) : List Block := chunkBlocks (blockCount s.length) s

/-- The bytes of a run of blocks, in order. -/
def bytesOfBlocks (bs : List Block) : List Byte := bs.flatMap blockBytes

/-- A byte string of 4 bytes as a word of the key schedule (R81). -/
def wordOfBytes (s : List Byte) : Word32 := BitVec.ofNat 32 (beNat s)

/-- The 4 bytes of a word (R81). -/
def wordBytes (w : Word32) : List Byte := beBytes 4 w.toNat

/-- Bytewise exclusive or of two byte strings, as long as the shorter one (R10). -/
def xorBytes (s t : List Byte) : List Byte := List.zipWith (· ^^^ ·) s t

end Sys2Proof.Machine
end

