-- ==== Sys2Proof/Syntax.lean ====
section
/-! DEFINITION. The sixteen commands (spec/30_encoding.md R65), one constructor for each row of
spec/opcode_table.json, with the operands a packet carries: the fields `a` and `len` of its header
(R61, R62) and its payload cut as R64 says. -/

namespace Sys2Proof

/-- A command of the engine. A constructor's docstring gives its row's mnemonic and rule. -/
inductive Instr where
  /-- KEXP (R100): `a` the key length in bytes, then the key. -/
  | kexp (a : BitVec 8) (key : List Byte)
  /-- ENCB (R101): `a` the block count, then the blocks. -/
  | encb (a : BitVec 8) (blocks : List Block)
  /-- DECB (R102): `a` the block count, then the blocks. -/
  | decb (a : BitVec 8) (blocks : List Block)
  /-- CINIT (R112): the nonce. -/
  | cinit (nonce : Nonce)
  /-- CNEXT (R113): `a` the number of counter blocks asked for. -/
  | cnext (a : BitVec 8)
  /-- GINIT (R142). -/
  | ginit
  /-- GFOLD (R132): one block. -/
  | gfold (block : Block)
  /-- GFOLDN (R143): `a` the block count, then the blocks, oldest first. -/
  | gfoldn (a : BitVec 8) (blocks : List Block)
  /-- GFINAL (R144): the length block, made by the host. -/
  | gfinal (block : Block)
  /-- GCM_INIT (R151): `a` the key length and `len` the associated-data length in bytes, then the
  key, the nonce and the associated data. -/
  | gcmInit (a : BitVec 8) (len : BitVec 48) (key : List Byte) (nonce : Nonce) (aad : List Byte)
  /-- GCM_ENC (R153): `len` the payload length, then the plaintext bytes. -/
  | gcmEnc (len : BitVec 48) (plaintext : List Byte)
  /-- GCM_DEC (R154): `len` the payload length, then the ciphertext bytes. -/
  | gcmDec (len : BitVec 48) (ciphertext : List Byte)
  /-- GCM_FINAL (R160): `a` the tag length in bytes. -/
  | gcmFinal (a : BitVec 8)
  /-- GCM_VERIFY (R162): `a` the tag length in bytes, then the expected tag. -/
  | gcmVerify (a : BitVec 8) (tag : List Byte)
  /-- RDST (R170). -/
  | rdst
  /-- ZEROIZE (R172). -/
  | zeroize
deriving DecidableEq, Repr

end Sys2Proof
end

