-- ==== Sys2Proof/WellFormed.lean ====
section
/-! DEFINITION. Which terms of `Instr` are packets: the payload has the length the header gives it
(spec/30_encoding.md R64, spec/20_memory.md R53). Whether an operand VALUE is legal (R63 step 3, the
key lengths of R184) is no matter of form: the command's own meaning checks it and ends with the
status the spec names. -/

namespace Sys2Proof

/-- The instruction is a packet: its payload has paylen(header) bytes (R53, R64). A nonce and a
single block have their length by their type. -/
abbrev Instr.WellFormed : Instr → Prop
  | .kexp a key => key.length = a.toNat
  | .encb a blocks => blocks.length = a.toNat
  | .decb a blocks => blocks.length = a.toNat
  | .cinit _ => True
  | .cnext _ => True
  | .ginit => True
  | .gfold _ => True
  | .gfoldn a blocks => blocks.length = a.toNat
  | .gfinal _ => True
  | .gcmInit a len key _ aad => key.length = a.toNat ∧ aad.length = len.toNat
  | .gcmEnc len plaintext => plaintext.length = len.toNat
  | .gcmDec len ciphertext => ciphertext.length = len.toNat
  | .gcmFinal _ => True
  | .gcmVerify a tag => tag.length = a.toNat
  | .rdst => True
  | .zeroize => True

end Sys2Proof
end

