-- ==== Sys2Proof/Decode.lean ====
section
/-! DEFINITION. The encoding of commands (spec/30_encoding.md R61 to R69): header fields, opcode
map, formats, payload lengths; the decoder, total on any bytes; the encoder. -/

namespace Sys2Proof

open Sys2Proof.Machine (beNat beBytes blockOfBytes blockBytes chunkBlocks bytesOfBlocks)

/-- Header bits 63:56, the opcode (R61). -/
def hdrOp (h : Header) : BitVec 8 := h.extractLsb' 56 8

/-- Header bits 55:48, the small operand (R61). -/
def hdrA (h : Header) : BitVec 8 := h.extractLsb' 48 8

/-- Header bits 47:0, the byte length (R61). -/
def hdrLen (h : Header) : BitVec 48 := h.extractLsb' 0 48

/-- A header from its three fields (R61). -/
def mkHeader (op a : BitVec 8) (len : BitVec 48) : Header := op ++ a ++ len

/-- The sixteen opcodes by name (R65). -/
inductive Opcode where
  | kexp | encb | decb | cinit | cnext | ginit | gfold | gfoldn | gfinal
  | gcmInit | gcmEnc | gcmDec | gcmFinal | gcmVerify | rdst | zeroize
deriving DecidableEq, Repr

/-- Every opcode, in the order of R65's table. -/
def opcodes : List Opcode :=
  [ .kexp, .encb, .decb, .cinit, .cnext, .ginit, .gfold, .gfoldn, .gfinal,
    .gcmInit, .gcmEnc, .gcmDec, .gcmFinal, .gcmVerify, .rdst, .zeroize ]

/-- The opcode numbers (R65). -/
def opNumber : Opcode → BitVec 8
  | .kexp => 0x01
  | .encb => 0x02
  | .decb => 0x03
  | .cinit => 0x10
  | .cnext => 0x11
  | .ginit => 0x20
  | .gfold => 0x21
  | .gfoldn => 0x22
  | .gfinal => 0x23
  | .gcmInit => 0x30
  | .gcmEnc => 0x31
  | .gcmDec => 0x32
  | .gcmFinal => 0x33
  | .gcmVerify => 0x34
  | .rdst => 0xF0
  | .zeroize => 0xFF

/-- Which of `a` and `len` a command uses (R62). -/
inductive Format where
  | Z | F | A | L | AL
deriving DecidableEq, Repr

/-- The format of each command (R62, R65). -/
def formatOf : Opcode → Format
  | .kexp => .A
  | .encb => .A
  | .decb => .A
  | .cinit => .F
  | .cnext => .A
  | .ginit => .Z
  | .gfold => .F
  | .gfoldn => .A
  | .gfinal => .F
  | .gcmInit => .AL
  | .gcmEnc => .L
  | .gcmDec => .L
  | .gcmFinal => .A
  | .gcmVerify => .A
  | .rdst => .Z
  | .zeroize => .Z

/-- The fields a format does not use are zero (R62, R68). -/
def fieldsZero (f : Format) (a : BitVec 8) (len : BitVec 48) : Bool :=
  match f with
  | .Z => a == 0 && len == 0
  | .F => a == 0 && len == 0
  | .A => len == 0
  | .L => a == 0
  | .AL => true

/-- The mask of a row of R65: the bits its format fixes. -/
def rowMask (o : Opcode) : Header :=
  match formatOf o with
  | .Z => 0xFFFFFFFFFFFFFFFF#64
  | .F => 0xFFFFFFFFFFFFFFFF#64
  | .A => 0xFF00FFFFFFFFFFFF#64
  | .L => 0xFFFF000000000000#64
  | .AL => 0xFF00000000000000#64

/-- The match value of a row of R65: the opcode number over zeros. -/
def rowMatch (o : Opcode) : Header := mkHeader (opNumber o) 0 0

/-- A header selects a row when (h & mask) = match (R65). -/
abbrev selects (h : Header) (o : Opcode) : Prop := h &&& rowMask o = rowMatch o

/-- The opcode of a number; none for the 240 reserved values (R65, R67). -/
def opcodeOf (n : BitVec 8) : Option Opcode := opcodes.find? fun o => opNumber o == n

/-- The payload length of a command (R64). -/
def opPaylen (o : Opcode) (a : BitVec 8) (len : BitVec 48) : Nat :=
  match o with
  | .kexp => a.toNat
  | .encb => 16 * a.toNat
  | .decb => 16 * a.toNat
  | .cinit => 12
  | .cnext => 0
  | .ginit => 0
  | .gfold => 16
  | .gfoldn => 16 * a.toNat
  | .gfinal => 16
  | .gcmInit => a.toNat + 12 + len.toNat
  | .gcmEnc => len.toNat
  | .gcmDec => len.toNat
  | .gcmFinal => 0
  | .gcmVerify => a.toNat
  | .rdst => 0
  | .zeroize => 0

/-- `paylen(hdr)`, computed from the header alone and before any check; 0 for any other `op`
(R64). -/
def paylen (h : Header) : Nat :=
  match opcodeOf (hdrOp h) with
  | some o => opPaylen o (hdrA h) (hdrLen h)
  | none => 0

/-- Why a byte string is not decoded to an instruction. The first two end with the status
IllegalCommand (R63, R67, R68); the others are no packets (R53). -/
inductive DecodeError where
  /-- `op` is not in R65 (R63 step 1, R67). -/
  | undefinedOpcode (op : BitVec 8)
  /-- A field the format requires to be zero is not (R63 step 2, R68). -/
  | nonzeroField (o : Opcode)
  /-- The payload is not paylen(header) bytes long (R53). -/
  | payloadLength
  /-- The header is not whole (R53, R69). -/
  | shortHeader
deriving DecidableEq, Repr

/-- The instruction of an opcode with its fields and its payload, cut as R64 says. -/
def assemble (o : Opcode) (a : BitVec 8) (len : BitVec 48) (p : List Byte) : Instr :=
  match o with
  | .kexp => .kexp a p
  | .encb => .encb a (chunkBlocks a.toNat p)
  | .decb => .decb a (chunkBlocks a.toNat p)
  | .cinit => .cinit (BitVec.ofNat 96 (beNat p))
  | .cnext => .cnext a
  | .ginit => .ginit
  | .gfold => .gfold (blockOfBytes p)
  | .gfoldn => .gfoldn a (chunkBlocks a.toNat p)
  | .gfinal => .gfinal (blockOfBytes p)
  | .gcmInit =>
    .gcmInit a len (p.take a.toNat) (BitVec.ofNat 96 (beNat ((p.drop a.toNat).take 12)))
      (p.drop (a.toNat + 12))
  | .gcmEnc => .gcmEnc len p
  | .gcmDec => .gcmDec len p
  | .gcmFinal => .gcmFinal a
  | .gcmVerify => .gcmVerify a p
  | .rdst => .rdst
  | .zeroize => .zeroize

/-- Decode of a header with its payload: the length of the packet (R53, R64), then the opcode, then
the fields that must be zero (R63 steps 1 and 2). Step 3, the legal set of `a`, is the first test of
the command's own meaning, as its rule writes it (log 7). -/
def decodeHeader (h : Header) (payload : List Byte) : Except DecodeError Instr :=
  if payload.length ≠ paylen h then .error .payloadLength
  else
    match opcodeOf (hdrOp h) with
    | none => .error (.undefinedOpcode (hdrOp h))
    | some o =>
      if fieldsZero (formatOf o) (hdrA h) (hdrLen h) then
        .ok (assemble o (hdrA h) (hdrLen h) payload)
      else .error (.nonzeroField o)

/-- The decoder: the bytes of a packet, header first, most significant byte first (R42, R61, R69). -/
def decode (bytes : List Byte) : Except DecodeError Instr :=
  if bytes.length < 8 then .error .shortHeader
  else decodeHeader (BitVec.ofNat 64 (beNat (bytes.take 8))) (bytes.drop 8)

/-- The header of an instruction (R61, R62, R65). -/
def headerOf : Instr → Header
  | .kexp a _ => mkHeader 0x01 a 0
  | .encb a _ => mkHeader 0x02 a 0
  | .decb a _ => mkHeader 0x03 a 0
  | .cinit _ => mkHeader 0x10 0 0
  | .cnext a => mkHeader 0x11 a 0
  | .ginit => mkHeader 0x20 0 0
  | .gfold _ => mkHeader 0x21 0 0
  | .gfoldn a _ => mkHeader 0x22 a 0
  | .gfinal _ => mkHeader 0x23 0 0
  | .gcmInit a len _ _ _ => mkHeader 0x30 a len
  | .gcmEnc len _ => mkHeader 0x31 0 len
  | .gcmDec len _ => mkHeader 0x32 0 len
  | .gcmFinal a => mkHeader 0x33 a 0
  | .gcmVerify a _ => mkHeader 0x34 a 0
  | .rdst => mkHeader 0xF0 0 0
  | .zeroize => mkHeader 0xFF 0 0

/-- The row of R65 an instruction belongs to. -/
def instrOpcode : Instr → Opcode
  | .kexp _ _ => .kexp
  | .encb _ _ => .encb
  | .decb _ _ => .decb
  | .cinit _ => .cinit
  | .cnext _ => .cnext
  | .ginit => .ginit
  | .gfold _ => .gfold
  | .gfoldn _ _ => .gfoldn
  | .gfinal _ => .gfinal
  | .gcmInit _ _ _ _ _ => .gcmInit
  | .gcmEnc _ _ => .gcmEnc
  | .gcmDec _ _ => .gcmDec
  | .gcmFinal _ => .gcmFinal
  | .gcmVerify _ _ => .gcmVerify
  | .rdst => .rdst
  | .zeroize => .zeroize

/-- The payload bytes of an instruction (R64). -/
def payloadOf : Instr → List Byte
  | .kexp _ key => key
  | .encb _ blocks => bytesOfBlocks blocks
  | .decb _ blocks => bytesOfBlocks blocks
  | .cinit nonce => beBytes 12 nonce.toNat
  | .cnext _ => []
  | .ginit => []
  | .gfold block => blockBytes block
  | .gfoldn _ blocks => bytesOfBlocks blocks
  | .gfinal block => blockBytes block
  | .gcmInit _ _ key nonce aad => key ++ beBytes 12 nonce.toNat ++ aad
  | .gcmEnc _ plaintext => plaintext
  | .gcmDec _ ciphertext => ciphertext
  | .gcmFinal _ => []
  | .gcmVerify _ tag => tag
  | .rdst => []
  | .zeroize => []

/-- The encoder: the bytes of the packet, header first (R42, R61, R64). -/
def encode (i : Instr) : List Byte := beBytes 8 (headerOf i).toNat ++ payloadOf i

/-- The packet whose header is the `nbits` low bits of `w` and whose payload is all zeros: the
header's 8 bytes, most significant first (R42), then paylen(header) bytes 00 (R64). -/
def tableWordBytes (nbits w : Nat) : List Byte :=
  let h : Header := BitVec.ofNat 64 (w % 2 ^ nbits)
  beBytes 8 h.toNat ++ List.replicate (paylen h) 0

/-- The instruction the decoder reads from a packet given by its header word. -/
def decodeTableWord (nbits w : Nat) : Option Instr :=
  match decode (tableWordBytes nbits w) with
  | .ok i => some i
  | .error _ => none

end Sys2Proof
end

