-- ==== Sys2Proof/Machine/Counter.lean ====
section
/-! DEFINITION. The functions of unit CG (spec/41_counter.md R110 to R113). -/

namespace Sys2Proof.Machine

/-- be(C[12..15]), the 32-bit block counter of a counter block (R18, R43). -/
def blockCounter (c : Block) : BitVec 32 := c.extractLsb' 0 32

/-- C[0..11], the nonce of a counter block (R18). -/
def nonceOf (c : Block) : Nonce := c.extractLsb' 32 96

/-- The largest counter value ever issued (R113). -/
def counterTop : Nat := 0xFFFFFFFF

/-- `inc32(C, n)`: `n` added to the block counter, no carry into the nonce (R111). Every rule that
calls it has tested that the sum is at most 0xFFFFFFFF (log 10). -/
def inc32 (c : Block) (n : Nat) : Block := nonceOf c ++ (blockCounter c + BitVec.ofNat 32 n)

/-- nonce ‖ 00000001, the block reserved for the tag mask (R112). -/
def seedBlock (nonce : Nonce) : Block := nonce ++ 1#32

/-- The range test of R113: `n` more counter blocks can be issued after `c`. -/
abbrev canIssue (c : Block) (n : Nat) : Prop := (blockCounter c).toNat + n ≤ counterTop

/-- The counter blocks `Issue(n)` hands out (R113). -/
def issuedBlocks (c : Block) (n : Nat) : List Block := (List.range n).map fun i => inc32 c (i + 1)

end Sys2Proof.Machine
end

