-- ==== Sys2Proof/Config.lean ====
section
/-! DEFINITION. What a build of the engine fixes (spec/00_scope.md R7, R8): the parameters K, TIER
and LANES, which a model takes as arguments, and the width lists the spec fixes. -/

namespace Sys2Proof

/-- The capability tier of a build, `Reference < NarrowVector < WideVector` (R8). -/
inductive Tier where
  | reference
  | narrowVector
  | wideVector
deriving DecidableEq, Repr

/-- The build parameters (R8, R28): constants of one engine, never written by a command. -/
structure Build where
  /-- K, the number of entries of the power table HPOW[1..K]. -/
  k : Nat
  /-- TIER, visible in the status word only. -/
  tier : Tier
  /-- LANES, the blocks one vector register of the datapath holds. -/
  lanes : Nat
deriving DecidableEq, Repr

/-- The range R8 gives each parameter: 1 ≤ K ≤ 32 and LANES one of 1, 2, 4. -/
abbrev Build.legal (b : Build) : Prop :=
  1 ≤ b.k ∧ b.k ≤ 32 ∧ (b.lanes = 1 ∨ b.lanes = 2 ∨ b.lanes = 4)

/-- The defaults of R8: K = 8, TIER = 0, LANES = 1. DESIGN CHOICE (log 1): `State.reset` is the
reset state of this build; every statement is for every build. -/
def Build.standard : Build := { k := 8, tier := .reference, lanes := 1 }

/-- ENCW: the block counts one block-cipher call accepts (R8). -/
def encWidths : List Nat := [1, 2, 4, 8, 16, 32]

/-- FOLDW: the unroll widths the sequencer tries, widest first (R8, R141). -/
def foldWidths : List Nat := [32, 16, 8, 4, 1]

/-- The key lengths in bytes (R7). -/
def keyLengths : List Nat := [16, 24, 32]

/-- The identity string of the interface (R3). -/
def identityString : String := "AESGCM-ENG-1"

end Sys2Proof
end

