-- ==== Sys2Proof/Machine/Aes.lean ====
section
/-! DEFINITION. The cipher of unit BC (spec/40_blockcipher.md R81 to R98): GF(2^8), the two S-boxes,
the round transformations and their inverses, key expansion, the decryption schedule and the block
transforms. The tables are the spec's (its general-knowledge passages G1 to G4, log 13). -/

namespace Sys2Proof.Machine

/-- `xtime(b)`: `b` times x modulo x^8 + x^4 + x^3 + x + 1 (R82). -/
def xtime (b : Byte) : Byte :=
  if b.getLsbD 7 then (b <<< 1) ^^^ 0x1B#8 else b <<< 1

/-- `xtime` applied `n` times (R82). -/
def xtimeIter : (n : Nat) → (b : Byte) → Byte
  | 0, b => b
  | n + 1, b => xtime (xtimeIter n b)

/-- `gmul8(a, b)`: the exclusive or over every set bit `i` of `b` of `xtime` applied `i` times to
`a` (R82). -/
def gmul8 (a b : Byte) : Byte :=
  (List.range 8).foldl (fun z i => if b.getLsbD i then z ^^^ xtimeIter i a else z) 0

/-- The S-box table of R83, one row of 16 entries for each high nibble. -/
def sboxRows : List Block :=
  [ 0x637c777bf26b6fc53001672bfed7ab76#128, 0xca82c97dfa5947f0add4a2af9ca472c0#128,
    0xb7fd9326363ff7cc34a5e5f171d83115#128, 0x04c723c31896059a071280e2eb27b275#128,
    0x09832c1a1b6e5aa0523bd6b329e32f84#128, 0x53d100ed20fcb15b6acbbe394a4c58cf#128,
    0xd0efaafb434d338545f9027f503c9fa8#128, 0x51a3408f929d38f5bcb6da2110fff3d2#128,
    0xcd0c13ec5f974417c4a77e3d645d1973#128, 0x60814fdc222a908846eeb814de5e0bdb#128,
    0xe0323a0a4906245cc2d3ac629195e479#128, 0xe7c8376d8dd54ea96c56f4ea657aae08#128,
    0xba78252e1ca6b4c6e8dd741f4bbd8b8a#128, 0x703eb5664803f60e613557b986c11d9e#128,
    0xe1f8981169d98e949b1e87e9ce5528df#128, 0x8ca1890dbfe6426841992d0fb054bb16#128 ]

/-- The inverse S-box table of R84, one row of 16 entries for each high nibble. -/
def invSboxRows : List Block :=
  [ 0x52096ad53036a538bf40a39e81f3d7fb#128, 0x7ce339829b2fff87348e4344c4dee9cb#128,
    0x547b9432a6c2233dee4c950b42fac34e#128, 0x082ea16628d924b2765ba2496d8bd125#128,
    0x72f8f66486689816d4a45ccc5d65b692#128, 0x6c704850fdedb9da5e154657a78d9d84#128,
    0x90d8ab008cbcd30af7e45805b8b34506#128, 0xd02c1e8fca3f0f02c1afbd0301138a6b#128,
    0x3a9111414f67dcea97f2cfcef0b4e673#128, 0x96ac7422e7ad3585e2f937e81c75df6e#128,
    0x47f11a711d29c5896fb7620eaa18be1b#128, 0xfc563e4bc6d279209adbc0fe78cd5af4#128,
    0x1fdda8338807c731b11210592780ec5f#128, 0x60517fa919b54a0d2de57a9f93c99cef#128,
    0xa0e03b4dae2af5b0c8ebbb3c83539961#128, 0x172b047eba77d626e169146355210c7d#128 ]

/-- The entry a byte selects: row by its high nibble, column by its low nibble (R83). -/
def tableEntry (rows : List Block) (v : Byte) : Byte :=
  byteAt (rows[v.toNat / 16]?.getD 0) (v.toNat % 16)

/-- `SBOX[v]` (R83). -/
def sbox (v : Byte) : Byte := tableEntry sboxRows v

/-- `INV_SBOX[v]` (R84). -/
def invSbox (v : Byte) : Byte := tableEntry invSboxRows v

/-- `SubBytes` (R85). -/
def subBytes (b : Block) : Block := blockOfBytes ((blockBytes b).map sbox)

/-- `InvSubBytes` (R85). -/
def invSubBytes (b : Block) : Block := blockOfBytes ((blockBytes b).map invSbox)

/-- `ShiftRows(B)[i] = B[(i + 4·(i mod 4)) mod 16]` (R86). -/
def shiftRows (b : Block) : Block :=
  blockOfBytes ((List.range 16).map fun i => byteAt b ((i + 4 * (i % 4)) % 16))

/-- `InvShiftRows(B)[i] = B[(i − 4·(i mod 4)) mod 16]` (R86). -/
def invShiftRows (b : Block) : Block :=
  blockOfBytes ((List.range 16).map fun i => byteAt b ((i + 16 - 4 * (i % 4)) % 16))

/-- One column of `MixColumns` (R87). -/
def mixColumn (a0 a1 a2 a3 : Byte) : List Byte :=
  [ gmul8 a0 2 ^^^ gmul8 a1 3 ^^^ a2 ^^^ a3,
    a0 ^^^ gmul8 a1 2 ^^^ gmul8 a2 3 ^^^ a3,
    a0 ^^^ a1 ^^^ gmul8 a2 2 ^^^ gmul8 a3 3,
    gmul8 a0 3 ^^^ a1 ^^^ a2 ^^^ gmul8 a3 2 ]

/-- One column of `InvMixColumns` (R88). -/
def invMixColumn (a0 a1 a2 a3 : Byte) : List Byte :=
  [ gmul8 a0 14 ^^^ gmul8 a1 11 ^^^ gmul8 a2 13 ^^^ gmul8 a3 9,
    gmul8 a0 9 ^^^ gmul8 a1 14 ^^^ gmul8 a2 11 ^^^ gmul8 a3 13,
    gmul8 a0 13 ^^^ gmul8 a1 9 ^^^ gmul8 a2 14 ^^^ gmul8 a3 11,
    gmul8 a0 11 ^^^ gmul8 a1 13 ^^^ gmul8 a2 9 ^^^ gmul8 a3 14 ]

/-- A column function applied to the four columns B[4c..4c+3] of a block (R81). -/
def mapColumns (f : Byte → Byte → Byte → Byte → List Byte) (b : Block) : Block :=
  blockOfBytes ((List.range 4).flatMap fun c =>
    f (byteAt b (4 * c)) (byteAt b (4 * c + 1)) (byteAt b (4 * c + 2)) (byteAt b (4 * c + 3)))

/-- `MixColumns` (R87). -/
def mixColumns (b : Block) : Block := mapColumns mixColumn b

/-- `InvMixColumns` (R88). -/
def invMixColumns (b : Block) : Block := mapColumns invMixColumn b

/-- `AddRoundKey(B, RK)` (R89). -/
def addRoundKey (b rk : Block) : Block := b ^^^ rk

/-- `RCON[1..10]` (R90). -/
def rconTable : List Byte := [0x01, 0x02, 0x04, 0x08, 0x10, 0x20, 0x40, 0x80, 0x1b, 0x36]

/-- `RCON[j]`, j ≥ 1 (R90). -/
def rcon (j : Nat) : Byte := rconTable[j - 1]?.getD 0

/-- `RotWord(w)` = (w[1], w[2], w[3], w[0]) (R91). -/
def rotWord (w : Word32) : Word32 := w.rotateLeft 8

/-- `SubWord(w)` (R91). -/
def subWord (w : Word32) : Word32 := wordOfBytes ((wordBytes w).map sbox)

/-- A file of fifteen round keys, ERK or DRK (R16, R17). -/
abbrev RoundKeys := Vector Block 15

/-- Every round key zero (R33). -/
def zeroKeys : RoundKeys := Vector.replicate 15 0

/-- Round key `r` of a file. DESIGN CHOICE (log 9): beyond entry 14 it reads zero, which no state
that satisfies R32 does. -/
def roundKey (rk : RoundKeys) (r : Nat) : Block := rk[r]?.getD 0

/-- Word `i` of a schedule under construction. -/
def wordAt (w : List Word32) (i : Nat) : Word32 := w[i]?.getD 0

/-- w[i] for Nk ≤ i, from the words before it (R92). -/
def nextWord (nk : Nat) (w : List Word32) (i : Nat) : Word32 :=
  let t := wordAt w (i - 1)
  let t :=
    if i % nk = 0 then subWord (rotWord t) ^^^ ((rcon (i / nk)).setWidth 32 <<< 24)
    else if nk = 8 ∧ i % nk = 4 then subWord t
    else t
  wordAt w (i - nk) ^^^ t

/-- w[0 .. 4(NR+1) − 1] for a key of 4·`nk` bytes (R92). -/
def keyWords (nk nr : Nat) (key : List Byte) : List Word32 :=
  (List.range' nk (4 * (nr + 1) - nk)).foldl (fun w i => w ++ [nextWord nk w i])
    ((List.range nk).map fun i => wordOfBytes ((key.drop (4 * i)).take 4))

/-- A key schedule: the round count and the two files of round keys (R92, R93). -/
structure Schedule where
  nr : Nat
  erk : RoundKeys
  drk : RoundKeys
deriving DecidableEq, Repr

/-- ERK from the words of the schedule; entries above NR are zero (R92). -/
def encryptionKeys (nr : Nat) (w : List Word32) : RoundKeys :=
  Vector.ofFn fun r : Fin 15 =>
    if r.val ≤ nr then
      wordAt w (4 * r.val) ++ wordAt w (4 * r.val + 1) ++ wordAt w (4 * r.val + 2)
        ++ wordAt w (4 * r.val + 3)
    else 0

/-- DRK from ERK, the schedule of the equivalent inverse cipher; entries above NR are zero (R93). -/
def decryptionKeys (nr : Nat) (erk : RoundKeys) : RoundKeys :=
  Vector.ofFn fun r : Fin 15 =>
    if r.val = 0 then roundKey erk nr
    else if r.val < nr then invMixColumns (roundKey erk (nr - r.val))
    else if r.val = nr then roundKey erk 0
    else 0

/-- The schedule of a key of legal length: Nk = L/4, NR = Nk + 6 (R92, R93). -/
def keySchedule (key : List Byte) : Schedule :=
  let nk := key.length / 4
  let nr := nk + 6
  let erk := encryptionKeys nr (keyWords nk nr key)
  { nr := nr, erk := erk, drk := decryptionKeys nr erk }

/-- One full round of encryption (R95). -/
def encRound (erk : RoundKeys) (s : Block) (r : Nat) : Block :=
  addRoundKey (mixColumns (shiftRows (subBytes s))) (roundKey erk r)

/-- `EncryptBlock(ERK, NR, B)` (R95). -/
def encryptBlock (erk : RoundKeys) (nr : Nat) (b : Block) : Block :=
  let s := (List.range' 1 (nr - 1)).foldl (encRound erk) (addRoundKey b (roundKey erk 0))
  addRoundKey (shiftRows (subBytes s)) (roundKey erk nr)

/-- One full round of decryption (R97). -/
def decRound (drk : RoundKeys) (s : Block) (r : Nat) : Block :=
  addRoundKey (invMixColumns (invShiftRows (invSubBytes s))) (roundKey drk r)

/-- `DecryptBlock(DRK, NR, B)` (R97). -/
def decryptBlock (drk : RoundKeys) (nr : Nat) (b : Block) : Block :=
  let s := (List.range' 1 (nr - 1)).foldl (decRound drk) (addRoundKey b (roundKey drk 0))
  addRoundKey (invShiftRows (invSubBytes s)) (roundKey drk nr)

/-- `EncryptBlocks`: N independent calls (R96). -/
def encryptBlocks (erk : RoundKeys) (nr : Nat) (bs : List Block) : List Block :=
  bs.map (encryptBlock erk nr)

/-- `DecryptBlocks`: N independent calls (R98). -/
def decryptBlocks (drk : RoundKeys) (nr : Nat) (bs : List Block) : List Block :=
  bs.map (decryptBlock drk nr)

end Sys2Proof.Machine
end

