-- ==== Sys2Proof/Machine/State.lean ====
section
/-! DEFINITION. The state of the engine (spec/10_state.md R13 to R33): every element of the table of
R33, the lane registers of R29, and three fields of the model's own: the build's constants, the
command port and the response port. Plain data throughout. -/

namespace Sys2Proof.Machine

/-- FSM, the sequencer's state (R23): 2 bits, all four values used. -/
inductive Fsm where
  | uninit
  | keynonce
  | stream
  | final
deriving DecidableEq, Repr

/-- A direction of the stream. DIR (R24) is `none` or one of these; its value 3 never occurs. -/
inductive Direction where
  | enc
  | dec
deriving DecidableEq, Repr

/-- The six status codes (R180). Codes 6 to 255 are never produced, so LASTST holds one of these
(log 16). -/
inductive Status where
  | ok
  | invalidKeyLength
  | invalidState
  | messageTooLong
  | tagMismatch
  | illegalCommand
deriving DecidableEq, Repr

/-- A response packet (R60, R66): its status and its output bytes. -/
structure Response where
  status : Status
  out : List Byte
deriving DecidableEq, Repr

/-- What the host can do to the engine (R14, R60, R211): offer a packet at the command port, all of
its bytes, header first; or drive the reset input. -/
inductive HostEvent where
  | packet (bytes : List Byte)
  | reset
deriving DecidableEq, Repr

/-- The state of one engine. Fields `kv` to `lastst` are the elements of R33 in its order, `lanes`
those of R29(b); `build`, `inbox` and `outbox` are the model's own (logs 1, 2, 3). -/
structure State where
  /-- KV: the key schedule is valid (R15). -/
  kv : Bool
  /-- KLEN: key length in bytes, 0, 16, 24 or 32 (R15). -/
  klen : BitVec 8
  /-- NR: round count, 0, 10, 12 or 14 (R15). -/
  nr : BitVec 8
  /-- ERK[0..14], the encryption-direction round keys (R16). -/
  erk : RoundKeys
  /-- DRK[0..14], the decryption-direction round keys (R17). -/
  drk : RoundKeys
  /-- CV: the counter is seeded (R18). -/
  cv : Bool
  /-- CTR: the last counter block issued (R18). -/
  ctr : Block
  /-- GV: subkey and power table are valid (R19). -/
  gv : Bool
  /-- H: the hash subkey (R19). -/
  h : Block
  /-- HPOW[1..K], from HPOW[1] on (R19). -/
  hpow : List Block
  /-- ACC: the running authentication value (R20). -/
  acc : Block
  /-- PLO: the low partial product, zero between commands (R29, I22). -/
  plo : BitVec 128
  /-- PHI: the high partial product, zero between commands (R29, I22). -/
  phi : BitVec 128
  /-- PMID: the middle partial product, zero between commands (R29, I22). -/
  pmid : BitVec 128
  /-- V[0..LANES−1]: the lane registers, zero between commands (R29, I22). -/
  lanes : List Block
  /-- TMASK: E(nonce ‖ 00000001) (R21). -/
  tmask : Block
  /-- AADLEN: associated-data bytes folded (R22). -/
  aadlen : BitVec 64
  /-- CTLEN: payload bytes processed (R22). -/
  ctlen : BitVec 64
  /-- KS: the keystream block in progress (R25). -/
  ks : Block
  /-- RES: the ciphertext bytes in progress (R25). -/
  res : Block
  /-- RESN: how many of them, 0 to 15 (R25). -/
  resn : BitVec 4
  /-- FSM (R23). -/
  fsm : Fsm
  /-- DIR (R24). -/
  dir : Option Direction
  /-- LASTST: the status of the last command other than RDST (R26). -/
  lastst : Status
  /-- The parameters of this build: constants, never written (R28, log 1). -/
  build : Build
  /-- What the host offers, oldest first (log 2). -/
  inbox : List HostEvent
  /-- The responses sent, oldest first (log 3). -/
  outbox : List Response
deriving DecidableEq, Repr

/-- No command stops the machine: for every state and every packet one ending of one rule gives the
next state (R225), an error being an ending with a status (R192). So there is no reason to fault,
and nothing raises one. -/
inductive Fault where
deriving DecidableEq, Repr

/-- Why a step has no meaning. -/
inductive Refusal where
  /-- An instruction that has no meaning yet, raised by `exec`. No arm of `exec` answers with it.
  Safe: the model stops where the engine would go on. -/
  | notModelled (mnemonic : String)
  /-- What the host offers is no packet: its payload is not paylen(header) bytes long, or the header
  is not whole; "a packet whose payload has another length is not a command of this engine and a
  model refuses it (it has no step)" (R53). Raised by the step when it decodes. Safe: nothing is
  claimed of what follows (log 5). -/
  | notACommand
deriving DecidableEq, Repr

/-- The reset state of an engine of build `b` with nothing offered and nothing sent: every element
zero, FSM = UNINIT, DIR = NONE, LASTST = OK (R33, R210). -/
def State.resetOf (b : Build) : State where
  kv := false
  klen := 0
  nr := 0
  erk := zeroKeys
  drk := zeroKeys
  cv := false
  ctr := 0
  gv := false
  h := 0
  hpow := List.replicate b.k 0
  acc := 0
  plo := 0
  phi := 0
  pmid := 0
  lanes := List.replicate b.lanes 0
  tmask := 0
  aadlen := 0
  ctlen := 0
  ks := 0
  res := 0
  resn := 0
  fsm := .uninit
  dir := none
  lastst := .ok
  build := b
  inbox := []
  outbox := []

/-- The machine right after reset (R33, R210), with the default parameters of R8 (log 1). -/
def State.reset : State := State.resetOf Build.standard

end Sys2Proof.Machine
end

