-- ==== Sys2Proof/Machine/Flags.lean ====
section
/-! DEFINITION. The codes of the status elements and the status word (spec/10_state.md R23, R24,
R27; spec/60_exceptions.md R180; spec/44_system.md R171), and the state tests the commands make.
The engine has no arithmetic condition codes (R27). -/

namespace Sys2Proof.Machine

/-- The numbers of the status codes (R180). -/
def statusCode : Status → BitVec 8
  | .ok => 0
  | .invalidKeyLength => 1
  | .invalidState => 2
  | .messageTooLong => 3
  | .tagMismatch => 4
  | .illegalCommand => 5

/-- The encoding of FSM (R23). -/
def fsmCode : Fsm → BitVec 2
  | .uninit => 0
  | .keynonce => 1
  | .stream => 2
  | .final => 3

/-- The encoding of DIR (R24). -/
def dirCode : Option Direction → BitVec 2
  | none => 0
  | some .enc => 1
  | some .dec => 2

/-- The number of a tier (R8, R171). -/
def tierCode : Tier → BitVec 8
  | .reference => 0
  | .narrowVector => 1
  | .wideVector => 2

/-- A flag as a bit. -/
def flagBit (b : Bool) : BitVec 1 := BitVec.ofBool b

/-- `StatusWord()`: LASTST, FSM, DIR, KV, CV, GV, 0, KLEN, NR, RESN, K, TIER, 0 from bit 63 down
(R171). -/
def statusWord (s : State) : BitVec 64 :=
  statusCode s.lastst ++ fsmCode s.fsm ++ dirCode s.dir ++ flagBit s.kv ++ flagBit s.cv
    ++ flagBit s.gv ++ 0#1 ++ s.klen ++ s.nr ++ (0#4 ++ s.resn) ++ BitVec.ofNat 8 s.build.k
    ++ tierCode s.build.tier ++ 0#8

/-- Manual mode: no sequencer stream exists (R150, R185 a). -/
abbrev State.manual (s : State) : Prop := s.fsm = .uninit

/-- A message is open: FSM is KEYNONCE or STREAM (R150, R185 e). -/
abbrev State.streamOpen (s : State) : Prop := s.fsm = .keynonce ∨ s.fsm = .stream

/-- The direction `d` may be taken: none is latched yet, or this one is (R152, R185 f). -/
abbrev State.directionFree (s : State) (d : Direction) : Prop := s.dir = none ∨ s.dir = some d

end Sys2Proof.Machine
end

