-- ==== Sys2Proof/Machine/Galois.lean ====
section
/-! DEFINITION. The arithmetic of unit GA (spec/42_galois.md R121 to R141): the reference
multiplication of GF(2^128), the datapath multiplication with its carry-less multiply, Karatsuba
split and two-round reduction, the simple fold and the aggregated fold. -/

namespace Sys2Proof.Machine

/-- x^128 reduced, in the bit order of R121 (R122). -/
def gfR : Block := 0xE1000000000000000000000000000000#128

/-- `v` times x in the bit order of R121 (R122). -/
def gfShift (v : Block) : Block :=
  if v.getLsbD 0 then (v >>> 1) ^^^ gfR else v >>> 1

/-- Step `i` of the reference multiplication: the pair is (z, v) (R122). -/
def gfStep (x : Block) (p : Block × Block) (i : Nat) : Block × Block :=
  (if x.getLsbD (127 - i) then p.1 ^^^ p.2 else p.1, gfShift p.2)

/-- `gfmul(X, Y)`, the reference multiplication (R122). -/
def gfmul (x y : Block) : Block :=
  ((List.range 128).foldl (gfStep x) (0, y)).1

/-- `clmul64(a, b)`, the carry-less product (R124). -/
def clmul64 (a b : BitVec 64) : BitVec 128 :=
  (List.range 64).foldl
    (fun z i => if b.getLsbD i then z ^^^ (a.setWidth 128 <<< i) else z) 0

/-- `bitrev128(v)`: bit i is bit 127 − i of `v` (R125). -/
def bitrev128 (v : Block) : BitVec 128 := v.reverse

/-- The three partial products of a Karatsuba multiply, as the registers PLO, PHI and PMID hold
them (R126, R138). -/
structure Partials where
  lo : BitVec 128
  hi : BitVec 128
  mid : BitVec 128
deriving DecidableEq, Repr

/-- No product yet: PLO, PHI and PMID at the start of an aggregated fold (R137). -/
def Partials.zero : Partials := { lo := 0, hi := 0, mid := 0 }

/-- The partial products added part by part (R137). -/
def Partials.add (p q : Partials) : Partials :=
  { lo := p.lo ^^^ q.lo, hi := p.hi ^^^ q.hi, mid := p.mid ^^^ q.mid }

/-- `kara(a, b)` (R126). -/
def kara (a b : BitVec 128) : Partials :=
  let a1 : BitVec 64 := a.extractLsb' 64 64
  let a0 : BitVec 64 := a.extractLsb' 0 64
  let b1 : BitVec 64 := b.extractLsb' 64 64
  let b0 : BitVec 64 := b.extractLsb' 0 64
  { lo := clmul64 a0 b0, hi := clmul64 a1 b1, mid := clmul64 (a0 ^^^ a1) (b0 ^^^ b1) }

/-- `combine(lo, hi, mid)` (R127). -/
def combine (p : Partials) : BitVec 256 :=
  (p.hi.setWidth 256 <<< 128) ^^^ ((p.mid ^^^ p.hi ^^^ p.lo).setWidth 256 <<< 64)
    ^^^ p.lo.setWidth 256

/-- `reduce256(z)`: two rounds of multiply, shift and exclusive or with 0x87 (R128). -/
def reduce256 (z : BitVec 256) : BitVec 128 :=
  let a := clmul64 (z.extractLsb' 192 64) 0x87#64
  let z1 : BitVec 256 := (z.extractLsb' 0 192).setWidth 256 ^^^ (a.setWidth 256 <<< 64)
  let b := clmul64 (z1.extractLsb' 128 64) 0x87#64
  z1.extractLsb' 0 128 ^^^ b

/-- `gfmul_dp(X, Y)`, the datapath multiplication (R129). -/
def gfmulDp (x y : Block) : Block :=
  bitrev128 (reduce256 (combine (kara (bitrev128 x) (bitrev128 y))))

/-- H^p, H^p·H, H^p·H², ...: `n` successive powers from `p` on (R130). -/
def powersFrom (h : Block) : (n : Nat) → (p : Block) → List Block
  | 0, _ => []
  | n + 1, p => p :: powersFrom h n (gfmul p h)

/-- The table HPOW[1..K] (R130). -/
def powerTable (k : Nat) (h : Block) : List Block := powersFrom h k h

/-- HPOW[j], j ≥ 1, of a table held from HPOW[1] on. DESIGN CHOICE (log 9): beyond entry K it reads
zero, which no command asks for in a state that satisfies R32. -/
def hpowAt (table : List Block) (j : Nat) : Block := table[j - 1]?.getD 0

/-- `Fold(acc, B)`, the simple path (R131). -/
def fold (h acc b : Block) : Block := gfmul (acc ^^^ b) h

/-- Blocks folded one by one, oldest first (R131, R140). -/
def foldBlocks (h acc : Block) (bs : List Block) : Block := bs.foldl (fold h) acc

/-- `FoldBytes(acc, s)`: the last block zero-padded for folding only (R133). -/
def foldBytes (h acc : Block) (s : List Byte) : Block := foldBlocks h acc (blocksOfBytes s)

/-- `LenBlock(aadBytes, ctBytes)`: the two bit lengths, 64 bits each, the AAD length first (R136). -/
def lenBlock (aadBytes ctBytes : BitVec 64) : Block := (8 * aadBytes) ++ (8 * ctBytes)

/-- The partial products of the blocks of a window added to `p`; a block pairs with the power of H
that counts the blocks from it to the newest one (R137, R139). -/
def aggParts (table : List Block) : (bs : List Block) → (p : Partials) → Partials
  | [], p => p
  | b :: bs, p =>
    aggParts table bs (p.add (kara (bitrev128 b) (bitrev128 (hpowAt table (bs.length + 1)))))

/-- The blocks of a window with the accumulator entered into the oldest one only (R137). -/
def enterAcc (acc : Block) : List Block → List Block
  | [] => []
  | b :: bs => (b ^^^ acc) :: bs

/-- What PLO, PHI and PMID hold when every block of the window has been multiplied (R137, R138). -/
def aggPartials (table : List Block) (acc : Block) (bs : List Block) : Partials :=
  aggParts table (enterAcc acc bs) Partials.zero

/-- `FoldAgg(acc, [B_1 .. B_n])`, 1 ≤ n ≤ K, with one combined reduction (R137). -/
def foldAgg (table : List Block) (acc : Block) (bs : List Block) : Block :=
  bitrev128 (reduce256 (combine (aggPartials table acc bs)))

end Sys2Proof.Machine
end

