-- ==== Sys2Proof/Machine/Operands.lean ====
section
/-! DEFINITION. The legal sets of the small operand `a` (spec/30_encoding.md R63 step 3, R68;
spec/60_exceptions.md R182, R184) and the fields an operand is used as. -/

namespace Sys2Proof.Machine

/-- `a` of KEXP and GCM_INIT is a key length (R100, R151, R184). -/
abbrev keyLengthLegal (a : BitVec 8) : Prop := a.toNat ∈ keyLengths

/-- `a` of ENCB and DECB is one of 1, 2, 4, 8, 16, 32 (R63, R101, R182 d). -/
abbrev encWidthLegal (a : BitVec 8) : Prop := a.toNat ∈ encWidths

/-- `a` of CNEXT is at most 32 (R63, R113, R182 e). -/
abbrev issueCountLegal (a : BitVec 8) : Prop := a.toNat ≤ 32

/-- `a` of GFOLDN is in 1..K; K is a parameter of the build (R63, R143, R182 f). -/
abbrev foldCountLegal (b : Build) (a : BitVec 8) : Prop := 1 ≤ a.toNat ∧ a.toNat ≤ b.k

/-- `a` of GCM_FINAL and GCM_VERIFY is in 1..16 (R63, R160, R162, R182 g). -/
abbrev tagLengthLegal (a : BitVec 8) : Prop := 1 ≤ a.toNat ∧ a.toNat ≤ 16

/-- The first `t` bytes of a tag (R160). -/
def tagBytes (t : Nat) (tag : Block) : List Byte := (blockBytes tag).take t

/-- The OR of the differences of the first `t` bytes; every byte is looked at (R162). -/
def tagDiff (t : Nat) (tag : Block) (expected : List Byte) : Byte :=
  (List.range t).foldl (fun d i => d ||| (byteAt tag i ^^^ expected[i]?.getD 0)) 0

end Sys2Proof.Machine
end

