-- ==== Sys2Proof/Machine/Ops.lean ====
section
/-! DEFINITION. The named operations over the state that the commands share: fetching a packet,
ending a command with a response (spec/30_encoding.md R66), the error entry
(spec/60_exceptions.md R192), and the steps the command rules are written in. -/

namespace Sys2Proof.Machine

/-! ### Fetching a packet -/

/-- What the engine finds at its ports: nothing (it waits, R53, R205), the reset input (R211), or a
packet, with the state in which the packet has been taken. -/
inductive Fetched where
  | idle
  | reset (s : State)
  | packet (bytes : List Byte) (s : State)

/-- The reset input: every element gets its reset value; the build's constants stay; a command in
progress sends no response (R210, R211, log 6). `rest` is what the host offers afterwards. -/
def State.resetInput (s : State) (rest : List HostEvent) : State :=
  { State.resetOf s.build with inbox := rest, outbox := s.outbox }

/-- The oldest thing the host offers (R51, R60). -/
def fetch (s : State) : Fetched :=
  match s.inbox with
  | [] => .idle
  | .reset :: rest => .reset (s.resetInput rest)
  | .packet bytes :: rest => .packet bytes { s with inbox := rest }

/-! ### Ending a command -/

/-- Sends a response packet and writes nothing else (R60, R66). -/
def State.send (st : Status) (out : List Byte) (s : State) : State :=
  { s with outbox := s.outbox ++ [{ status := st, out := out }] }

/-- `respond(st, out)` of every command but RDST: LASTST is written, the response is sent (R11, R26,
R66). -/
def State.respond (st : Status) (out : List Byte) (s : State) : State :=
  { s with lastst := st, outbox := s.outbox ++ [{ status := st, out := out }] }

/-- Error entry, `raise <Name>`, the one operation that takes an error: the status is latched in
LASTST and sent with no output; nothing is saved and control goes nowhere (R11, R180, R192). The
effects R184 to R187 give a status in a command stand in the state it is applied to. There is no
return from an error: the engine waits for the next header (R193). -/
def State.raise (st : Status) (s : State) : State := s.respond st []

/-- The ending of a header that decode fails: IllegalCommand and no other change, the payload taken
and discarded; with `op` = 0xF0 LASTST is left alone as well (R67, R68, R170, R182). -/
def State.raiseIllegal (op : BitVec 8) (s : State) : State :=
  if op = opNumber .rdst then s.send .illegalCommand [] else s.raise .illegalCommand

/-- The ending of bytes the decoder does not read as an instruction (R53, R63). -/
def endUndecoded (e : DecodeError) (s : State) : Host.Outcome State Fault Refusal :=
  match e with
  | .undefinedOpcode op => .next (s.raiseIllegal op)
  | .nonzeroField o => .next (s.raiseIllegal (opNumber o))
  | .payloadLength => .refused .notACommand
  | .shortHeader => .refused .notACommand

/-! ### The engine's own schedule -/

/-- `E(B)` under the engine's schedule (R12, R95). -/
def State.encrypt (s : State) (b : Block) : Block := encryptBlock s.erk s.nr.toNat b

/-- `D(B)` under the engine's schedule (R12, R97). -/
def State.decrypt (s : State) (b : Block) : Block := decryptBlock s.drk s.nr.toNat b

/-! ### Steps of the command rules -/

/-- `Zeroize()`: the reset value in every element but LASTST; the build and the ports are no
elements of it (R172). -/
def State.wiped (s : State) : State :=
  { State.resetOf s.build with lastst := s.lastst, inbox := s.inbox, outbox := s.outbox }

/-- BC and everything derived from the old key cleared (R100, R184). -/
def State.clearKey (s : State) : State :=
  { s with
    kv := false, klen := 0, nr := 0, erk := zeroKeys, drk := zeroKeys,
    gv := false, h := 0, hpow := List.replicate s.build.k 0, acc := 0 }

/-- (NR, ERK, DRK) ← ExpandKey(key); KLEN ← a; KV ← 1 (R92, R93, R100, R151). -/
def State.loadKey (a : BitVec 8) (key : List Byte) (s : State) : State :=
  { s with
    kv := true, klen := a, nr := BitVec.ofNat 8 (keySchedule key).nr,
    erk := (keySchedule key).erk, drk := (keySchedule key).drk }

/-- `Seed(nonce)` (R112). -/
def State.seed (nonce : Nonce) (s : State) : State := { s with cv := true, ctr := seedBlock nonce }

/-- The state part of `Issue(n)`: CTR ← inc32(CTR, n), where R113's range test holds. -/
def State.advance (n : Nat) (s : State) : State := { s with ctr := inc32 s.ctr n }

/-- `GInit()`: H ← E(0), HPOW[i] ← H^i, ACC ← 0, GV ← 1 (R130). -/
def State.hashInit (s : State) : State :=
  { s with
    gv := true, h := s.encrypt 0, hpow := powerTable s.build.k (s.encrypt 0), acc := 0 }

/-- ACC ← Fold(ACC, B) (R131). -/
def State.foldIn (b : Block) (s : State) : State := { s with acc := fold s.h s.acc b }

/-- ACC ← FoldAgg(ACC, blocks) (R137). PLO, PHI and PMID run up to `aggPartials` inside it and are
zero again when the command ends (R138, I22, log 8). -/
def State.foldAggIn (bs : List Block) (s : State) : State :=
  { s with acc := foldAgg s.hpow s.acc bs, plo := 0, phi := 0, pmid := 0 }

/-- The MessageTooLong ending of an update: the stream is aborted (R186). -/
def State.abortStream (s : State) : State :=
  { s with fsm := .final, acc := 0, ks := 0, res := 0, resn := 0 }

/-- The accumulator after `CloseTag()`: the partial block, if any, then the length block (R161). -/
def State.closedAcc (s : State) : Block :=
  let acc := if s.resn.toNat > 0 then fold s.h s.acc s.res else s.acc
  fold s.h acc (lenBlock s.aadlen s.ctlen)

/-- The tag `CloseTag()` returns (R161). -/
def State.closeTag (s : State) : Block := s.closedAcc ^^^ s.tmask

/-- The state after `CloseTag()` and FSM ← FINAL (R160, R161, R162). -/
def State.closed (s : State) : State :=
  { s with acc := s.closedAcc, resn := 0, res := 0, ks := 0, fsm := .final }

/-! ### The update of a stream, byte by byte -/

/-- `need`: how many new counter blocks an update of `n` bytes takes (R152). -/
def blocksNeeded (resn n : Nat) : Nat :=
  if n = 0 then 0
  else if resn > 0 then blockCount (resn + n) - 1
  else blockCount n

/-- A new block of the stream is begun when none is in progress: CTR ← inc32(CTR, 1),
KS ← E(CTR) (R152). -/
def State.beginBlock (s : State) : State :=
  if s.resn = 0 then { s with ctr := inc32 s.ctr 1, ks := s.encrypt (inc32 s.ctr 1) } else s

/-- The ciphertext byte of an update: its output in the direction ENC, its input in DEC (R152). -/
def cipherByte (d : Direction) (input output : Byte) : Byte :=
  match d with
  | .enc => output
  | .dec => input

/-- One ciphertext byte is put into RES; a full block is folded and RES cleared (R152). -/
def State.absorb (c : Byte) (s : State) : State :=
  if s.resn.toNat + 1 = 16 then
    { s with acc := fold s.h s.acc (setByteAt s.res s.resn.toNat c), res := 0, resn := 0 }
  else { s with res := setByteAt s.res s.resn.toNat c, resn := s.resn + 1 }

/-- One byte of an update: the state after it and the output byte (R152). -/
def State.updateByte (d : Direction) (s : State) (x : Byte) : State × Byte :=
  let s1 := s.beginBlock
  let o := x ^^^ byteAt s1.ks s1.resn.toNat
  (s1.absorb (cipherByte d x o), o)

/-- The bytes of an update in order: the state after them and the output (R152). -/
def State.updateBytes (d : Direction) : (s : State) → (p : List Byte) → State × List Byte
  | s, [] => (s, [])
  | s, x :: xs =>
    let r := s.updateByte d x
    let t := State.updateBytes d r.1 xs
    (t.1, r.2 :: t.2)

/-- The end of an update of `n` bytes: CTLEN ← CTLEN + n; DIR ← d; FSM ← STREAM (R152). -/
def State.finishUpdate (d : Direction) (n : Nat) (s : State) : State :=
  { s with ctlen := s.ctlen + BitVec.ofNat 64 n, dir := some d, fsm := .stream }

/-- `Update(d, payload)`, the common body of GCM_ENC and GCM_DEC (R152, R186). -/
def State.update (d : Direction) (p : List Byte) (s : State) : State :=
  if ¬ s.streamOpen then s.raise .invalidState
  else if ¬ s.directionFree d then s.raise .invalidState
  else if ¬ canIssue s.ctr (blocksNeeded s.resn.toNat p.length) then
    s.abortStream.raise .messageTooLong
  else
    let r := s.updateBytes d p
    (r.1.finishUpdate d p.length).respond .ok r.2

end Sys2Proof.Machine
end

