-- ==== Sys2Proof/Machine/BlockCipher.lean ====
section
/-! DEFINITION. The commands of unit BC (spec/40_blockcipher.md R100 to R102). -/

namespace Sys2Proof.Machine

/-- KEXP: expand a key in manual mode; an illegal length leaves the old schedule cleared (R100). -/
def execKexp (a : BitVec 8) (key : List Byte) (s : State) : Host.Outcome State Fault Refusal :=
  if ¬ s.manual then .next (s.raise .invalidState)
  else if ¬ keyLengthLegal a then .next (s.clearKey.raise .invalidKeyLength)
  else .next ((s.clearKey.loadKey a key).respond .ok [])

/-- ENCB: E of every block, in payload order (R101). -/
def execEncb (a : BitVec 8) (blocks : List Block) (s : State) :
    Host.Outcome State Fault Refusal :=
  if ¬ encWidthLegal a then .next (s.raise .illegalCommand)
  else if s.kv = false then .next (s.raise .invalidState)
  else .next (s.respond .ok (bytesOfBlocks (encryptBlocks s.erk s.nr.toNat blocks)))

/-- DECB: D of every block, in payload order (R102). -/
def execDecb (a : BitVec 8) (blocks : List Block) (s : State) :
    Host.Outcome State Fault Refusal :=
  if ¬ encWidthLegal a then .next (s.raise .illegalCommand)
  else if s.kv = false then .next (s.raise .invalidState)
  else .next (s.respond .ok (bytesOfBlocks (decryptBlocks s.drk s.nr.toNat blocks)))

end Sys2Proof.Machine
end

