-- ==== Sys2Proof/Machine/CounterUnit.lean ====
section
/-! DEFINITION. The commands of unit CG (spec/41_counter.md R112, R113). -/

namespace Sys2Proof.Machine

/-- CINIT: seed the counter in manual mode (R112). -/
def execCinit (nonce : Nonce) (s : State) : Host.Outcome State Fault Refusal :=
  if ¬ s.manual then .next (s.raise .invalidState)
  else .next ((s.seed nonce).respond .ok [])

/-- CNEXT: issue `a` counter blocks in manual mode, all or none (R113). -/
def execCnext (a : BitVec 8) (s : State) : Host.Outcome State Fault Refusal :=
  if ¬ issueCountLegal a then .next (s.raise .illegalCommand)
  else if ¬ s.manual ∨ s.cv = false then .next (s.raise .invalidState)
  else if ¬ canIssue s.ctr a.toNat then .next (s.raise .messageTooLong)
  else .next ((s.advance a.toNat).respond .ok (bytesOfBlocks (issuedBlocks s.ctr a.toNat)))

end Sys2Proof.Machine
end

