-- ==== Sys2Proof/Machine/GaloisUnit.lean ====
section
/-! DEFINITION. The commands of unit GA (spec/42_galois.md R132, R142 to R144). -/

namespace Sys2Proof.Machine

/-- GINIT: derive the subkey and the power table in manual mode (R130, R142). -/
def execGinit (s : State) : Host.Outcome State Fault Refusal :=
  if ¬ s.manual ∨ s.kv = false then .next (s.raise .invalidState)
  else .next (s.hashInit.respond .ok [])

/-- GFOLD: fold one block in manual mode (R131, R132). -/
def execGfold (block : Block) (s : State) : Host.Outcome State Fault Refusal :=
  if ¬ s.manual ∨ s.gv = false then .next (s.raise .invalidState)
  else .next ((s.foldIn block).respond .ok [])

/-- GFOLDN: aggregated fold of `a` blocks in manual mode (R137, R143). -/
def execGfoldn (a : BitVec 8) (blocks : List Block) (s : State) :
    Host.Outcome State Fault Refusal :=
  if ¬ foldCountLegal s.build a then .next (s.raise .illegalCommand)
  else if ¬ s.manual ∨ s.gv = false then .next (s.raise .invalidState)
  else .next ((s.foldAggIn blocks).respond .ok [])

/-- GFINAL: fold the host's length block and return the accumulator (R144). -/
def execGfinal (block : Block) (s : State) : Host.Outcome State Fault Refusal :=
  if ¬ s.manual ∨ s.gv = false then .next (s.raise .invalidState)
  else .next ((s.foldIn block).respond .ok (blockBytes (s.foldIn block).acc))

end Sys2Proof.Machine
end

