-- ==== Sys2Proof/Machine/Sequencer.lean ====
section
/-! DEFINITION. The commands of the sequencer SEQ (spec/43_aead_sequencer.md R150 to R162). -/

namespace Sys2Proof.Machine

/-- A message begun under a key of legal length, from a wiped state: schedule, subkey and table,
counter, tag mask, the associated data folded, the byte counts, FSM ← KEYNONCE (R151). -/
def State.startMessage (a : BitVec 8) (len : BitVec 48) (key : List Byte) (nonce : Nonce)
    (aad : List Byte) (s : State) : State :=
  let s1 := ((s.loadKey a key).hashInit).seed nonce
  { s1 with
    tmask := s1.encrypt s1.ctr
    acc := foldBytes s1.h s1.acc aad
    aadlen := len.setWidth 64
    ctlen := 0
    resn := 0
    res := 0
    ks := 0
    dir := none
    fsm := .keynonce }

/-- GCM_INIT: start a message; legal in every state, and the previous context is gone even when the
key length is illegal (R151, R184). -/
def execGcmInit (a : BitVec 8) (len : BitVec 48) (key : List Byte) (nonce : Nonce)
    (aad : List Byte) (s : State) : Host.Outcome State Fault Refusal :=
  if ¬ keyLengthLegal a then .next (s.wiped.raise .invalidKeyLength)
  else .next ((s.wiped.startMessage a len key nonce aad).respond .ok [])

/-- GCM_ENC: encrypt stream bytes (R152, R153). `len` is the length of the payload (R64). -/
def execGcmEnc (_len : BitVec 48) (plaintext : List Byte) (s : State) :
    Host.Outcome State Fault Refusal :=
  .next (s.update .enc plaintext)

/-- GCM_DEC: decrypt stream bytes (R152, R154). `len` is the length of the payload (R64). -/
def execGcmDec (_len : BitVec 48) (ciphertext : List Byte) (s : State) :
    Host.Outcome State Fault Refusal :=
  .next (s.update .dec ciphertext)

/-- GCM_FINAL: close the message and emit the leftmost `a` bytes of the tag (R160, R161). -/
def execGcmFinal (a : BitVec 8) (s : State) : Host.Outcome State Fault Refusal :=
  if ¬ tagLengthLegal a then .next (s.raise .illegalCommand)
  else if ¬ s.streamOpen then .next (s.raise .invalidState)
  else .next (s.closed.respond .ok (tagBytes a.toNat s.closeTag))

/-- GCM_VERIFY: close the message and compare `a` bytes of the tag, all of them (R161, R162,
R187). -/
def execGcmVerify (a : BitVec 8) (tag : List Byte) (s : State) :
    Host.Outcome State Fault Refusal :=
  if ¬ tagLengthLegal a then .next (s.raise .illegalCommand)
  else if ¬ s.streamOpen then .next (s.raise .invalidState)
  else if tagDiff a.toNat s.closeTag tag = 0 then .next (s.closed.respond .ok [])
  else .next (s.closed.raise .tagMismatch)

end Sys2Proof.Machine
end

