-- ==== Sys2Proof/Machine/System.lean ====
section
/-! DEFINITION. The system commands (spec/44_system.md R170 to R172). -/

namespace Sys2Proof.Machine

/-- The 24 bytes RDST returns: the status word, AADLEN and CTLEN, big-endian (R170). -/
def State.statusBytes (s : State) : List Byte :=
  beBytes 8 (statusWord s).toNat ++ beBytes 8 s.aadlen.toNat ++ beBytes 8 s.ctlen.toNat

/-- RDST: read status; the one command that writes no state, LASTST included (R170). -/
def execRdst (s : State) : Host.Outcome State Fault Refusal :=
  .next (s.send .ok s.statusBytes)

/-- ZEROIZE: destroy the context; LASTST then records its own OK (R172). -/
def execZeroize (s : State) : Host.Outcome State Fault Refusal :=
  .next (s.wiped.respond .ok [])

end Sys2Proof.Machine
end

