-- ==== Sys2Proof/Machine/Dispatch.lean ====
section
/-! DEFINITION. One arm for each command, in the order of spec/30_encoding.md R65. -/

namespace Sys2Proof.Machine

def exec (i : Instr) (s : State) : Host.Outcome State Fault Refusal :=
  match i with
  | .kexp a key => Sys2Proof.Machine.execKexp a key s
  | .encb a blocks => Sys2Proof.Machine.execEncb a blocks s
  | .decb a blocks => Sys2Proof.Machine.execDecb a blocks s
  | .cinit nonce => Sys2Proof.Machine.execCinit nonce s
  | .cnext a => Sys2Proof.Machine.execCnext a s
  | .ginit => Sys2Proof.Machine.execGinit s
  | .gfold block => Sys2Proof.Machine.execGfold block s
  | .gfoldn a blocks => Sys2Proof.Machine.execGfoldn a blocks s
  | .gfinal block => Sys2Proof.Machine.execGfinal block s
  | .gcmInit a len key nonce aad => Sys2Proof.Machine.execGcmInit a len key nonce aad s
  | .gcmEnc len plaintext => Sys2Proof.Machine.execGcmEnc len plaintext s
  | .gcmDec len ciphertext => Sys2Proof.Machine.execGcmDec len ciphertext s
  | .gcmFinal a => Sys2Proof.Machine.execGcmFinal a s
  | .gcmVerify a tag => Sys2Proof.Machine.execGcmVerify a tag s
  | .rdst => Sys2Proof.Machine.execRdst s
  | .zeroize => Sys2Proof.Machine.execZeroize s

end Sys2Proof.Machine
end

