-- ==== Sys2Proof/Machine/Step.lean ====
section
/-! DEFINITION. One step of the engine (spec/20_memory.md R49, R51; spec/10_state.md R14): one whole
command, from header to response, or a wait, or the reset input. -/

namespace Sys2Proof.Machine

/-- Takes the oldest thing the host offers. With nothing offered the engine waits and no state
changes (R53, R205); the reset input resets it (R211); a packet is decoded and executed, and its
payload has been taken whatever the ending (R64). -/
def step (s : State) : Host.Outcome State Fault Refusal :=
  match fetch s with
  | .idle => .next s
  | .reset t => .next t
  | .packet bytes t =>
    match decode bytes with
    | .ok i => exec i t
    | .error e => endUndecoded e t

/-- `s` with the packet of a header word offered first at the command port, so that the next step
runs it. The host issues every command (R13, R60): this stands for that (log 2). -/
def State.withFetchWord (s : State) (nbits w : Nat) : State :=
  { s with inbox := .packet (tableWordBytes nbits w) :: s.inbox }

end Sys2Proof.Machine
end

