-- ==== Sys2Proof/Machine/Port.lean ====
section
/-! DEFINITION. The two ports' byte images: the response packet (spec/30_encoding.md R66) and the
128-bit beats both ports move byte strings in (spec/20_memory.md R46). -/

namespace Sys2Proof.Machine

/-- The response header: status in 63:56, zero in 55:48, the output length in 47:0 (R66). -/
def responseHeader (r : Response) : Header :=
  statusCode r.status ++ 0#8 ++ BitVec.ofNat 48 r.out.length

/-- The bytes of a response packet, header first, most significant byte first (R42, R66). -/
def responseBytes (r : Response) : List Byte := beBytes 8 (responseHeader r).toNat ++ r.out

/-- A beat: 16 bytes, byte 0 of the string in the most significant byte, and how many of them
count, 1 to 16 (R46). -/
structure Beat where
  data : Block
  count : Nat
deriving DecidableEq, Repr

/-- `n` beats of a byte string; bytes of the last beat beyond its count are driven as zero (R46). -/
def beatsFrom : (n : Nat) → (s : List Byte) → List Beat
  | 0, _ => []
  | n + 1, s =>
    { data := padBlock (s.take 16), count := min 16 s.length } :: beatsFrom n (s.drop 16)

/-- A byte string as beats (R46). -/
def beatsOf (s : List Byte) : List Beat := beatsFrom (blockCount s.length) s

/-- The bytes that count in a run of beats; the others are ignored (R46). -/
def bytesOfBeats (bs : List Beat) : List Byte :=
  bs.flatMap fun b => (blockBytes b.data).take b.count

end Sys2Proof.Machine
end

