-- ==== Sys2Proof/Machine/Text.lean ====
section
/-! DEFINITION. The textual form of commands and responses and the pseudo-commands
(spec/30_encoding.md R70, R71). -/

namespace Sys2Proof.Machine

/-- A hexadecimal digit. -/
def hexDigit (n : Nat) : Char :=
  ['0', '1', '2', '3', '4', '5', '6', '7', '8', '9', 'a', 'b', 'c', 'd', 'e', 'f'][n]?.getD '?'

/-- A byte string in hexadecimal, byte 0 first (R10, R70). -/
def hexText (s : List Byte) : String :=
  String.ofList (s.flatMap fun b => [hexDigit (b.toNat / 16), hexDigit (b.toNat % 16)])

/-- The mnemonics (R65). -/
def mnemonic : Opcode → String
  | .kexp => "KEXP"
  | .encb => "ENCB"
  | .decb => "DECB"
  | .cinit => "CINIT"
  | .cnext => "CNEXT"
  | .ginit => "GINIT"
  | .gfold => "GFOLD"
  | .gfoldn => "GFOLDN"
  | .gfinal => "GFINAL"
  | .gcmInit => "GCM_INIT"
  | .gcmEnc => "GCM_ENC"
  | .gcmDec => "GCM_DEC"
  | .gcmFinal => "GCM_FINAL"
  | .gcmVerify => "GCM_VERIFY"
  | .rdst => "RDST"
  | .zeroize => "ZEROIZE"

/-- The status names (R180). -/
def statusName : Status → String
  | .ok => "OK"
  | .invalidKeyLength => "InvalidKeyLength"
  | .invalidState => "InvalidState"
  | .messageTooLong => "MessageTooLong"
  | .tagMismatch => "TagMismatch"
  | .illegalCommand => "IllegalCommand"

/-- The operand part of a command's text: `a` and `len` in decimal where the format uses them
(R62, R70). -/
def operandText (f : Format) (a : BitVec 8) (len : BitVec 48) : String :=
  match f with
  | .Z => ""
  | .F => ""
  | .A => " " ++ toString a.toNat
  | .L => " , " ++ toString len.toNat
  | .AL => " " ++ toString a.toNat ++ ", " ++ toString len.toNat

/-- A colon and the bytes in hexadecimal, where there are any (R70). -/
def bytesText (s : List Byte) : String := if s = [] then "" else " : " ++ hexText s

/-- `MNEMONIC [a] [, len] [: payload]` (R70). -/
def commandText (i : Instr) : String :=
  let h := headerOf i
  match opcodeOf (hdrOp h) with
  | some o => mnemonic o ++ operandText (formatOf o) (hdrA h) (hdrLen h) ++ bytesText (payloadOf i)
  | none => ""

/-- `-> STATUSNAME [: output]` (R70). -/
def responseText (r : Response) : String := "-> " ++ statusName r.status ++ bytesText r.out

/-- `ENCBLK : B` is `ENCB 1 : B` (R71). -/
def pseudoEncblk (b : Block) : Instr := .encb 1 [b]

/-- `DECBLK : B` is `DECB 1 : B` (R71). -/
def pseudoDecblk (b : Block) : Instr := .decb 1 [b]

/-- `GCM_TAG` is `GCM_FINAL 16` (R71). -/
def pseudoGcmTag : Instr := .gcmFinal 16

/-- `GCM_CHECK : T` is `GCM_VERIFY 16 : T` (R71). -/
def pseudoGcmCheck (tag : List Byte) : Instr := .gcmVerify 16 tag

/-- `GCM_AADONLY k, l : key nonce aad` is a GCM_INIT, to be followed by `GCM_TAG` (R71). -/
def pseudoGcmAadOnly (a : BitVec 8) (len : BitVec 48) (key : List Byte) (nonce : Nonce)
    (aad : List Byte) : List Instr :=
  [.gcmInit a len key nonce aad, pseudoGcmTag]

end Sys2Proof.Machine
end

