-- ==== Sys2Proof/Machine/Datapath.lean ====
section
/-! DEFINITION. The parallel datapath: lane arrangement (spec/40_blockcipher.md R96, R98,
spec/41_counter.md R115, spec/44_system.md R177), the byte-reversed counter image (R116), the width
descent of the fold (spec/42_galois.md R141) and the parallel form of an update
(spec/43_aead_sequencer.md R158). The commands run the reference rules, which these must equal for
every K, LANES and TIER (spec/00_scope.md R9); the statements say so. -/

namespace Sys2Proof.Machine

/-! ### Lanes -/

/-- The first `n` vector registers of a run of blocks, `L` blocks each: block i stands in lane
(i mod L) of register ⌊i / L⌋ (R96, R115). -/
def cutRegisters (L : Nat) : (n : Nat) → (bs : List Block) → List (List Block)
  | 0, _ => []
  | n + 1, bs => bs.take L :: cutRegisters L n (bs.drop L)

/-- ⌈m / L⌉, the vector registers that `m` blocks fill. -/
def registerCount (L m : Nat) : Nat := (m + L - 1) / L

/-- A run of blocks spread over vector registers (R96). -/
def toRegisters (L : Nat) (bs : List Block) : List (List Block) :=
  cutRegisters L (registerCount L bs.length) bs

/-- One vector register through a cipher of `nr` rounds: every lane takes the same round with the
same round key in lock step, and no lane reads another (R96, R177). `first` and `last` are what
happens before round 1 and in round `nr`. -/
def lockStep (first last : Block → Block) (round : Block → Nat → Block) (nr : Nat)
    (reg : List Block) : List Block :=
  ((List.range' 1 (nr - 1)).foldl (fun v r => v.map fun s => round s r) (reg.map first)).map last

/-- One vector register through the rounds of `E` (R95, R96). -/
def encryptRegister (erk : RoundKeys) (nr : Nat) (reg : List Block) : List Block :=
  lockStep (fun b => addRoundKey b (roundKey erk 0))
    (fun s => addRoundKey (shiftRows (subBytes s)) (roundKey erk nr)) (encRound erk) nr reg

/-- One vector register through the rounds of `D` (R97, R98). -/
def decryptRegister (drk : RoundKeys) (nr : Nat) (reg : List Block) : List Block :=
  lockStep (fun b => addRoundKey b (roundKey drk 0))
    (fun s => addRoundKey (invShiftRows (invSubBytes s)) (roundKey drk nr)) (decRound drk) nr reg

/-- `EncryptBlocks` over `L` lanes (R96). -/
def encryptLanes (L : Nat) (erk : RoundKeys) (nr : Nat) (bs : List Block) : List Block :=
  (toRegisters L bs).flatMap (encryptRegister erk nr)

/-- `DecryptBlocks` over `L` lanes, arranged as for `EncryptBlocks` (R98, R177). -/
def decryptLanes (L : Nat) (drk : RoundKeys) (nr : Nat) (bs : List Block) : List Block :=
  (toRegisters L bs).flatMap (decryptRegister drk nr)

/-! ### Counter lanes -/

/-- `byterev16(C)`: byte i is C[15 − i] (R45, R116). -/
def byterev16 (c : Block) : Block := blockOfBytes (blockBytes c).reverse

/-- The integer a little-endian lane holds (R116). -/
def laneInt (image : Block) : Nat := beNat (blockBytes image).reverse

/-- The little-endian lane that holds an integer (R116). -/
def laneOfInt (v : Nat) : Block := blockOfBytes (beBytes 16 v).reverse

/-- A 32-bit add in the lowest 32-bit element of a lane, no carry into the next element (R116). -/
def laneAdd (image : Block) (n : Nat) : Block :=
  laneOfInt (laneInt image / 2 ^ 32 * 2 ^ 32 + (laneInt image % 2 ^ 32 + n) % 2 ^ 32)

/-- The first counter register: (1, 2, ..., L) added to a broadcast of CTR (R115). -/
def firstCounters (L : Nat) (c : Block) : List Block :=
  (List.range L).map fun j => laneAdd (byterev16 c) (j + 1)

/-- `n` counter registers, each from the one before by adding `L` in every lane (R115). -/
def counterRegisters (L : Nat) : (n : Nat) → (reg : List Block) → List (List Block)
  | 0, _ => []
  | n + 1, reg => reg :: counterRegisters L n (reg.map fun v => laneAdd v L)

/-- `m` counter blocks in lane arrangement, each image reversed again before it leaves CG (R115,
R116). -/
def issueLanes (L : Nat) (c : Block) (m : Nat) : List Block :=
  (((counterRegisters L (registerCount L m) (firstCounters L c)).flatten).take m).map byterev16

/-! ### The width descent -/

/-- The largest width of FOLDW that is at most `m` (R141). -/
def widestFit (m : Nat) : Nat := (foldWidths.find? fun w => decide (w ≤ m)).getD 1

/-- The widths that `m` whole blocks are folded in, widest first; `fuel` bounds their number
(R141). -/
def widthsFrom : (fuel : Nat) → (m : Nat) → List Nat
  | 0, _ => []
  | fuel + 1, m => if m = 0 then [] else widestFit m :: widthsFrom fuel (m - widestFit m)

/-- The width descent of `m` blocks (R141). -/
def descentWidths (m : Nat) : List Nat := widthsFrom m m

/-- Aggregated folds of at most `k` blocks each until no block is left; `fuel` bounds their number
(R141, C4). -/
def foldPieces (k : Nat) (table : List Block) : (fuel : Nat) → (acc : Block) → List Block → Block
  | 0, acc, _ => acc
  | fuel + 1, acc, bs =>
    if bs = [] then acc
    else foldPieces k table fuel (foldAgg table acc (bs.take k)) (bs.drop k)

/-- One width of the descent: width 1 is one `Fold`, a wider one is ⌈W/K⌉ aggregated folds (R141). -/
def foldWidth (k : Nat) (table : List Block) (h acc : Block) (bs : List Block) : Block :=
  if bs.length = 1 then foldBlocks h acc bs else foldPieces k table bs.length acc bs

/-- Runs of blocks of the given widths folded one after another. -/
def foldByWidths (k : Nat) (table : List Block) (h : Block) :
    (ws : List Nat) → (acc : Block) → (bs : List Block) → Block
  | [], acc, _ => acc
  | w :: ws, acc, bs =>
    foldByWidths k table h ws (foldWidth k table h acc (bs.take w)) (bs.drop w)

/-- Whole blocks folded by descending unroll width (R141). -/
def foldDescent (k : Nat) (table : List Block) (h acc : Block) (bs : List Block) : Block :=
  foldByWidths k table h (descentWidths bs.length) acc bs

/-! ### The parallel update -/

/-- The ciphertext of a run: the output in the direction ENC, the input in DEC (R152, R158). -/
def cipherBytes (d : Direction) (input output : List Byte) : List Byte :=
  match d with
  | .enc => output
  | .dec => input

/-- Phase 1 of R158: bytes that continue the block in progress, at most 16 − RESN of them, under
the KS held; a block they fill is folded. -/
def State.continueBlock (d : Direction) (p : List Byte) (s : State) : State × List Byte :=
  let n := s.resn.toNat
  let o := xorBytes p ((blockBytes s.ks).drop n)
  let r := padBlock ((blockBytes s.res).take n ++ cipherBytes d p o)
  (if n + p.length = 16 then { s with acc := fold s.h s.acc r, res := 0, resn := 0 }
   else { s with res := r, resn := BitVec.ofNat 4 (n + p.length) }, o)

/-- Phase 2 of R158 for one width: W counter blocks in lane arrangement, encrypted, combined with W
payload blocks, and the ciphertext blocks folded by the width descent. KS is left holding the last
keystream block, as the byte-serial rule leaves it. -/
def State.wideBlocks (d : Direction) (p : List Byte) (s : State) : State × List Byte :=
  let w := p.length / 16
  let ks := encryptLanes s.build.lanes s.erk s.nr.toNat (issueLanes s.build.lanes s.ctr w)
  let o := xorBytes p (bytesOfBlocks ks)
  ({ s with
      ctr := inc32 s.ctr w
      ks := ks.getLastD s.ks
      acc := foldDescent s.build.k s.hpow s.h s.acc (blocksOfBytes (cipherBytes d p o)) }, o)

/-- Phase 2 of R158 over the widths of the descent. -/
def State.wideRuns (d : Direction) : (ws : List Nat) → (p : List Byte) → (s : State) →
    State × List Byte
  | [], _, s => (s, [])
  | w :: ws, p, s =>
    let r := s.wideBlocks d (p.take (16 * w))
    let t := State.wideRuns d ws (p.drop (16 * w)) r.1
    (t.1, r.2 ++ t.2)

/-- Phase 3 of R158: fewer than 16 bytes start a new block in progress under a byte mask. -/
def State.tailBlock (d : Direction) (p : List Byte) (s : State) : State × List Byte :=
  if p = [] then (s, [])
  else
    let c := inc32 s.ctr 1
    let ks := s.encrypt c
    let o := xorBytes p (blockBytes ks)
    ({ s with
        ctr := c, ks := ks, res := padBlock (cipherBytes d p o),
        resn := BitVec.ofNat 4 p.length }, o)

/-- The bytes of an update in the three phases of R158. -/
def State.updateParallel (d : Direction) (p : List Byte) (s : State) : State × List Byte :=
  let n1 := if s.resn = 0 then 0 else min (16 - s.resn.toNat) p.length
  let m := (p.length - n1) / 16
  let r1 := if n1 = 0 then (s, []) else s.continueBlock d (p.take n1)
  let r2 := r1.1.wideRuns d (descentWidths m) ((p.drop n1).take (16 * m))
  let r3 := r2.1.tailBlock d (p.drop (n1 + 16 * m))
  (r3.1, r1.2 ++ r2.2 ++ r3.2)

end Sys2Proof.Machine
end

