-- ==== Sys2Proof/Safety.lean ====
section
/-! DEFINITION. What counts as a good state of the engine, and the spec's whole-machine tables, in
the terms the statements use: the invariants (spec/10_state.md R32 with R15, R21, R22, R25), the
causes and the priority of errors (spec/60_exceptions.md R182, R183, R185, R190), the transition
table (spec/43_aead_sequencer.md R150), the output lengths (spec/30_encoding.md R66) and the closed
form of a message (R163). -/

namespace Sys2Proof.Machine

/-! ### The invariants -/

/-- The field element 1 (R121). -/
def gfOne : Block := 0x80000000000000000000000000000000#128

/-- H^i: H^1 = H and H^(i+1) = gfmul(H^i, H) (R123). -/
def gfPow (h : Block) : Nat → Block
  | 0 => gfOne
  | 1 => h
  | n + 2 => gfmul (gfPow h (n + 1)) h

/-- HPOW[i] = H^i for 1 ≤ i ≤ K (R19, R32 b). -/
def powersHeld (k : Nat) (table : List Block) (h : Block) : Prop :=
  table.length = k ∧ ∀ i, 1 ≤ i → i ≤ k → hpowAt table i = gfPow h i

/-- The invariants of R32, with what R15, R21, R22, R25 and R29 say of the same elements. DIR ≠ 3
(R32 h) holds by the type of `dir`. -/
structure Inv (s : State) : Prop where
  /-- The parameters are in the ranges of R8. -/
  build_legal : s.build.legal
  /-- R32 a, KV = 0. -/
  key_absent : s.kv = false → s.klen = 0 ∧ s.nr = 0 ∧ s.erk = zeroKeys ∧ s.drk = zeroKeys
  /-- R15 and R32 a, KV = 1: the schedule is that of a key of KLEN bytes. -/
  key_present : s.kv = true →
    s.klen.toNat ∈ keyLengths ∧ s.nr.toNat = s.klen.toNat / 4 + 6 ∧
    (∀ r, s.nr.toNat < r → roundKey s.erk r = 0 ∧ roundKey s.drk r = 0) ∧
    ∃ key : List Byte, key.length = s.klen.toNat ∧
      s.erk = (keySchedule key).erk ∧ s.drk = (keySchedule key).drk
  /-- R32 b, GV = 1. -/
  hash_present : s.gv = true →
    s.kv = true ∧ s.h = s.encrypt 0 ∧ powersHeld s.build.k s.hpow s.h
  /-- R32 b, GV = 0. -/
  hash_absent : s.gv = false → s.h = 0 ∧ s.hpow = List.replicate s.build.k 0 ∧ s.acc = 0
  /-- R32 c. -/
  message : s.fsm ≠ .uninit → s.kv = true ∧ s.cv = true ∧ s.gv = true
  /-- R32 d, CV = 1. -/
  counter_present : s.cv = true → 1 ≤ (blockCounter s.ctr).toNat
  /-- R32 d, CV = 0. -/
  counter_absent : s.cv = false → s.ctr = 0
  /-- R21: TMASK is the encryption of the reserved block of this nonce. -/
  mask : s.fsm ≠ .uninit → s.tmask = s.encrypt (seedBlock (nonceOf s.ctr))
  /-- R25, R32 e: RES[RESN..15] are zero. -/
  residue_zero : ∀ i, s.resn.toNat ≤ i → i < 16 → byteAt s.res i = 0
  /-- R25, R32 e: a residue exists in a stream only, and KS is its keystream block. -/
  residue_open : s.resn ≠ 0 → s.fsm = .stream ∧ s.ks = s.encrypt s.ctr
  /-- R32 f; the counter stands at the reserved block (R151). -/
  fresh : s.fsm = .keynonce →
    s.ctlen = 0 ∧ s.resn = 0 ∧ s.dir = none ∧ (blockCounter s.ctr).toNat = 1
  /-- R32 e and g. -/
  running : s.fsm = .stream →
    s.dir ≠ none ∧ s.ctlen.toNat % 16 = s.resn.toNat ∧
    (blockCounter s.ctr).toNat = 1 + blockCount s.ctlen.toNat
  /-- R22: the bounds of the byte counts. -/
  lengths : s.aadlen.toNat < 2 ^ 48 ∧ s.ctlen.toNat ≤ 16 * (2 ^ 32 - 2)
  /-- Without a message the sequencer's registers are clear (R33, R172). -/
  quiet : s.fsm = .uninit →
    s.tmask = 0 ∧ s.aadlen = 0 ∧ s.ctlen = 0 ∧ s.ks = 0 ∧ s.res = 0 ∧ s.resn = 0 ∧ s.dir = none
  /-- R29 and I22: partial products and lane registers are zero between commands. -/
  idle : s.plo = 0 ∧ s.phi = 0 ∧ s.pmid = 0 ∧ s.lanes = List.replicate s.build.lanes 0

/-- The states an engine can be in: after reset, after a step, and with anything newly offered by
the host. -/
inductive Reachable : State → Prop where
  | start (b : Build) (legal : b.legal) : Reachable (State.resetOf b)
  | offered (s : State) (events : List HostEvent) (prior : Reachable s) :
      Reachable { s with inbox := events }
  | stepped (s t : State) (prior : Reachable s) (taken : step s = .next t) : Reachable t

/-! ### Errors -/

/-- The legal set of `a` of a command (R63 step 3). -/
def operandLegal (b : Build) : Instr → Bool
  | .kexp _ _ => true
  | .encb a _ => decide (encWidthLegal a)
  | .decb a _ => decide (encWidthLegal a)
  | .cinit _ => true
  | .cnext a => decide (issueCountLegal a)
  | .ginit => true
  | .gfold _ => true
  | .gfoldn a _ => decide (foldCountLegal b a)
  | .gfinal _ => true
  | .gcmInit _ _ _ _ _ => true
  | .gcmEnc _ _ => true
  | .gcmDec _ _ => true
  | .gcmFinal a => decide (tagLengthLegal a)
  | .gcmVerify a _ => decide (tagLengthLegal a)
  | .rdst => true
  | .zeroize => true

/-- The causes of IllegalCommand, (a) to (g), read off the header's bits (R182). -/
def illegalHeader (k : Nat) (h : Header) : Bool :=
  let op := (hdrOp h).toNat
  let a := (hdrA h).toNat
  let len := (hdrLen h).toNat
  !(decide (op ∈ [0x01, 0x02, 0x03, 0x10, 0x11, 0x20, 0x21, 0x22, 0x23, 0x30, 0x31, 0x32, 0x33,
      0x34, 0xF0, 0xFF]))
    || (decide (len ≠ 0) && !(decide (op ∈ [0x30, 0x31, 0x32])))
    || (decide (a ≠ 0) && decide (op ∈ [0x20, 0xF0, 0xFF, 0x10, 0x21, 0x23, 0x31, 0x32]))
    || (decide (op ∈ [0x02, 0x03]) && !(decide (a ∈ [1, 2, 4, 8, 16, 32])))
    || (decide (op = 0x11) && decide (32 < a))
    || (decide (op = 0x22) && decide (a = 0 ∨ k < a))
    || (decide (op ∈ [0x33, 0x34]) && decide (a = 0 ∨ 16 < a))

/-- The causes of InvalidState, (a) to (f) (R185). -/
def invalidStateCause (s : State) : Instr → Bool
  | .kexp _ _ => decide (s.fsm ≠ .uninit)
  | .encb _ _ => !s.kv
  | .decb _ _ => !s.kv
  | .cinit _ => decide (s.fsm ≠ .uninit)
  | .cnext _ => decide (s.fsm ≠ .uninit) || !s.cv
  | .ginit => decide (s.fsm ≠ .uninit) || !s.kv
  | .gfold _ => decide (s.fsm ≠ .uninit) || !s.gv
  | .gfoldn _ _ => decide (s.fsm ≠ .uninit) || !s.gv
  | .gfinal _ => decide (s.fsm ≠ .uninit) || !s.gv
  | .gcmInit _ _ _ _ _ => false
  | .gcmEnc _ _ => decide (s.fsm = .uninit ∨ s.fsm = .final) || decide (s.dir = some .dec)
  | .gcmDec _ _ => decide (s.fsm = .uninit ∨ s.fsm = .final) || decide (s.dir = some .enc)
  | .gcmFinal _ => decide (s.fsm = .uninit ∨ s.fsm = .final)
  | .gcmVerify _ _ => decide (s.fsm = .uninit ∨ s.fsm = .final)
  | .rdst => false
  | .zeroize => false

/-- The cause of InvalidKeyLength (R184). -/
def keyLengthCause : Instr → Bool
  | .kexp a _ => decide (¬ keyLengthLegal a)
  | .gcmInit a _ _ _ _ => decide (¬ keyLengthLegal a)
  | _ => false

/-- The cause of MessageTooLong (R186). -/
def tooLongCause (s : State) : Instr → Bool
  | .cnext a => decide (counterTop < (blockCounter s.ctr).toNat + a.toNat)
  | .gcmEnc _ p =>
    decide (counterTop < (blockCounter s.ctr).toNat + blocksNeeded s.resn.toNat p.length)
  | .gcmDec _ p =>
    decide (counterTop < (blockCounter s.ctr).toNat + blocksNeeded s.resn.toNat p.length)
  | _ => false

/-- The cause of TagMismatch: the payload differs from the first `a` bytes of the tag (R187). -/
def tagCause (s : State) : Instr → Bool
  | .gcmVerify a tag => decide (tag ≠ tagBytes a.toNat s.closeTag)
  | _ => false

/-- The status a command reports: the first cause in the order of R190, OK where there is none. -/
def reportedStatus (i : Instr) (s : State) : Status :=
  if operandLegal s.build i = false then .illegalCommand
  else if invalidStateCause s i then .invalidState
  else if keyLengthCause i then .invalidKeyLength
  else if tooLongCause s i then .messageTooLong
  else if tagCause s i then .tagMismatch
  else .ok

/-- Which statuses a decoded command can end with (R183). -/
def possibleStatuses : Instr → List Status
  | .kexp _ _ => [.ok, .invalidKeyLength, .invalidState, .illegalCommand]
  | .encb _ _ => [.ok, .invalidState, .illegalCommand]
  | .decb _ _ => [.ok, .invalidState, .illegalCommand]
  | .cinit _ => [.ok, .invalidState, .illegalCommand]
  | .cnext _ => [.ok, .invalidState, .messageTooLong, .illegalCommand]
  | .ginit => [.ok, .invalidState, .illegalCommand]
  | .gfold _ => [.ok, .invalidState, .illegalCommand]
  | .gfoldn _ _ => [.ok, .invalidState, .illegalCommand]
  | .gfinal _ => [.ok, .invalidState, .illegalCommand]
  | .gcmInit _ _ _ _ _ => [.ok, .invalidKeyLength]
  | .gcmEnc _ _ => [.ok, .invalidState, .messageTooLong, .illegalCommand]
  | .gcmDec _ _ => [.ok, .invalidState, .messageTooLong, .illegalCommand]
  | .gcmFinal _ => [.ok, .invalidState, .illegalCommand]
  | .gcmVerify _ _ => [.ok, .invalidState, .tagMismatch, .illegalCommand]
  | .rdst => [.ok, .illegalCommand]
  | .zeroize => [.ok, .illegalCommand]

/-! ### The transition table -/

/-- FSM after a command that ended with status `st` in the state `f`: the table of R150 with the
rows of the error endings. -/
def nextFsm (i : Instr) (st : Status) (f : Fsm) : Fsm :=
  match st with
  | .illegalCommand => f
  | .invalidState => f
  | .invalidKeyLength => .uninit
  | .messageTooLong =>
    match i with
    | .gcmEnc _ _ => .final
    | .gcmDec _ _ => .final
    | _ => f
  | .tagMismatch => .final
  | .ok =>
    match i with
    | .gcmInit _ _ _ _ _ => .keynonce
    | .gcmEnc _ _ => .stream
    | .gcmDec _ _ => .stream
    | .gcmFinal _ => .final
    | .gcmVerify _ _ => .final
    | .zeroize => .uninit
    | _ => f

/-- The cells of R150 marked IS: the command is refused in that state, an update in STREAM when its
direction differs from the one latched in DIR. -/
def refusedIn (i : Instr) (f : Fsm) (dir : Option Direction) : Bool :=
  match i with
  | .kexp _ _ => decide (f ≠ .uninit)
  | .cinit _ => decide (f ≠ .uninit)
  | .cnext _ => decide (f ≠ .uninit)
  | .ginit => decide (f ≠ .uninit)
  | .gfold _ => decide (f ≠ .uninit)
  | .gfoldn _ _ => decide (f ≠ .uninit)
  | .gfinal _ => decide (f ≠ .uninit)
  | .gcmEnc _ _ => decide (f = .uninit ∨ f = .final ∨ (f = .stream ∧ dir = some .dec))
  | .gcmDec _ _ => decide (f = .uninit ∨ f = .final ∨ (f = .stream ∧ dir = some .enc))
  | .gcmFinal _ => decide (f = .uninit ∨ f = .final)
  | .gcmVerify _ _ => decide (f = .uninit ∨ f = .final)
  | .encb _ _ => false
  | .decb _ _ => false
  | .gcmInit _ _ _ _ _ => false
  | .rdst => false
  | .zeroize => false

/-! ### Responses -/

/-- The output length of a command that ends with OK (R66). -/
def okOutlen : Instr → Nat
  | .encb a _ => 16 * a.toNat
  | .decb a _ => 16 * a.toNat
  | .cnext a => 16 * a.toNat
  | .gfinal _ => 16
  | .gcmEnc len _ => len.toNat
  | .gcmDec len _ => len.toNat
  | .gcmFinal a => a.toNat
  | .rdst => 24
  | _ => 0

/-- The update command of a direction for a run of bytes, its `len` field their number (R153,
R154). -/
def updateInstr (d : Direction) (p : List Byte) : Instr :=
  match d with
  | .enc => .gcmEnc (BitVec.ofNat 48 p.length) p
  | .dec => .gcmDec (BitVec.ofNat 48 p.length) p

/-- Commands executed one after another, stopping where one does not answer a next state. -/
def runCommands : List Instr → State → Host.Outcome State Fault Refusal
  | [], s => .next s
  | i :: is, s =>
    match exec i s with
    | .next t => runCommands is t
    | .fault r => .fault r
    | .refused r => .refused r

/-! ### The closed form of a message -/

/-- H = E(zero(16)) (R163). -/
def gcmSubkey (sch : Schedule) : Block := encryptBlock sch.erk sch.nr 0

/-- E(inc32(J0, 1)) ‖ E(inc32(J0, 2)) ‖ ..., as many blocks as `n` bytes start (R163). -/
def gcmKeystream (sch : Schedule) (j0 : Block) (n : Nat) : List Byte :=
  bytesOfBlocks ((List.range (blockCount n)).map fun j =>
    encryptBlock sch.erk sch.nr (inc32 j0 (j + 1)))

/-- The text of the other side: `p` combined with the keystream of its nonce (R163). -/
def gcmText (sch : Schedule) (nonce : Nonce) (p : List Byte) : List Byte :=
  xorBytes p (gcmKeystream sch (seedBlock nonce) p.length)

/-- The full tag of associated data `aad` and ciphertext `c` (R163). -/
def gcmTag (sch : Schedule) (nonce : Nonce) (aad c : List Byte) : Block :=
  let h := gcmSubkey sch
  fold h (foldBytes h (foldBytes h 0 aad) c)
      (lenBlock (BitVec.ofNat 64 aad.length) (BitVec.ofNat 64 c.length))
    ^^^ encryptBlock sch.erk sch.nr (seedBlock nonce)

end Sys2Proof.Machine
end

