-- ==== Sys2Proof/Certificates/Slice0/Obligations.lean ====
section
/-! DEFINITION. The statements for the provers. Each docstring names the rule of spec/ a statement
formalises. A command's statement gives its whole next state as a record update, so that every
element it does not name is unchanged; there is no memory to speak of (spec/20_memory.md R40). -/

open Sys2Proof Sys2Proof.Machine

/-! ### Encoding -/

/-- Decode undoes encode, for every command with every operand (30_encoding.md, sections 1 and 2). -/
def Obligations.DecodeOfEncodedInstruction : Prop :=
  ∀ i : Instr, i.WellFormed → decode (encode i) = .ok i

/-- Each packet has one meaning: what is decoded is well-formed and encodes to the very bytes. -/
def Obligations.DecodedInstructionEncodesBack : Prop :=
  ∀ (bytes : List Byte) (i : Instr), decode bytes = .ok i → i.WellFormed ∧ encode i = bytes

/-- The sixteen rows of R65 with their opcodes, formats, masks and match values, what selects a row,
and that no two rows overlap. That the decoder gives an instruction of exactly the selected row is
the model's cut of decode (log 7): by R63 step 3 a header such as 0203000000000000 selects ENCB's row
and fails decode, which here is the first test of ENCB's own meaning. -/
def Obligations.OpcodeRowsSelectAndDoNotOverlap : Prop :=
  (opcodes.map fun o => (mnemonic o, opNumber o, formatOf o, rowMask o, rowMatch o)) =
    [ ("KEXP", 0x01#8, .A, 0xFF00FFFFFFFFFFFF#64, 0x0100000000000000#64),
      ("ENCB", 0x02#8, .A, 0xFF00FFFFFFFFFFFF#64, 0x0200000000000000#64),
      ("DECB", 0x03#8, .A, 0xFF00FFFFFFFFFFFF#64, 0x0300000000000000#64),
      ("CINIT", 0x10#8, .F, 0xFFFFFFFFFFFFFFFF#64, 0x1000000000000000#64),
      ("CNEXT", 0x11#8, .A, 0xFF00FFFFFFFFFFFF#64, 0x1100000000000000#64),
      ("GINIT", 0x20#8, .Z, 0xFFFFFFFFFFFFFFFF#64, 0x2000000000000000#64),
      ("GFOLD", 0x21#8, .F, 0xFFFFFFFFFFFFFFFF#64, 0x2100000000000000#64),
      ("GFOLDN", 0x22#8, .A, 0xFF00FFFFFFFFFFFF#64, 0x2200000000000000#64),
      ("GFINAL", 0x23#8, .F, 0xFFFFFFFFFFFFFFFF#64, 0x2300000000000000#64),
      ("GCM_INIT", 0x30#8, .AL, 0xFF00000000000000#64, 0x3000000000000000#64),
      ("GCM_ENC", 0x31#8, .L, 0xFFFF000000000000#64, 0x3100000000000000#64),
      ("GCM_DEC", 0x32#8, .L, 0xFFFF000000000000#64, 0x3200000000000000#64),
      ("GCM_FINAL", 0x33#8, .A, 0xFF00FFFFFFFFFFFF#64, 0x3300000000000000#64),
      ("GCM_VERIFY", 0x34#8, .A, 0xFF00FFFFFFFFFFFF#64, 0x3400000000000000#64),
      ("RDST", 0xF0#8, .Z, 0xFFFFFFFFFFFFFFFF#64, 0xF000000000000000#64),
      ("ZEROIZE", 0xFF#8, .Z, 0xFFFFFFFFFFFFFFFF#64, 0xFF00000000000000#64) ] ∧
  (∀ (h : Header) (o o' : Opcode), selects h o → selects h o' → o = o') ∧
  (∀ (h : Header) (p : List Byte) (o : Opcode), p.length = paylen h →
    (selects h o ↔ ∃ i, decode (beBytes 8 h.toNat ++ p) = .ok i ∧ instrOpcode i = o))

/-- Headers written out from R61 and R65, one for each unit, with payloads of zeros. -/
def Obligations.HeadersWrittenFromTheTableDecode : Prop :=
  decodeTableWord 64 0x0201000000000000 = some (.encb 1 [0]) ∧
  decodeTableWord 64 0x1104000000000000 = some (.cnext 4) ∧
  decodeTableWord 64 0x2202000000000000 = some (.gfoldn 2 [0, 0]) ∧
  decodeTableWord 64 0x3100000000000003 = some (.gcmEnc 3 [0, 0, 0]) ∧
  decodeTableWord 64 0xF000000000000000 = some .rdst

/-- R67: the 240 reserved opcodes, 0x00 among them, end with IllegalCommand and change nothing else;
decode is total: every packet is answered. -/
def Obligations.ReservedOpcodesEndIllegal : Prop :=
  ((List.range 256).filter fun n => decide (opcodeOf (BitVec.ofNat 8 n) = none)).length = 240 ∧
  opcodeOf 0x00 = none ∧
  (∀ (s : State) (h : Header) (rest : List HostEvent),
    opcodeOf (hdrOp h) = none → s.inbox = .packet (beBytes 8 h.toNat) :: rest →
    step s = .next
      { s with inbox := rest, lastst := .illegalCommand
               outbox := s.outbox ++ [{ status := .illegalCommand, out := [] }] }) ∧
  (∀ (s : State) (h : Header) (p : List Byte) (rest : List HostEvent),
    s.inbox = .packet (beBytes 8 h.toNat ++ p) :: rest → p.length = paylen h →
    ∃ t, step s = .next t)

/-- R182: the causes of IllegalCommand, complete, and its effects; the payload is taken and
discarded, and LASTST is not written when `op` = 0xF0. -/
def Obligations.IllegalCommandCausesAreComplete : Prop :=
  ∀ (s : State) (h : Header) (p : List Byte) (rest : List HostEvent),
    s.inbox = .packet (beBytes 8 h.toNat ++ p) :: rest → p.length = paylen h →
    (illegalHeader s.build.k h = true →
      step s = .next
        { s with inbox := rest
                 lastst := if hdrOp h = 0xF0 then s.lastst else .illegalCommand
                 outbox := s.outbox ++ [{ status := .illegalCommand, out := [] }] }) ∧
    (illegalHeader s.build.k h = false →
      ∃ t r, step s = .next t ∧ t.outbox = s.outbox ++ [r] ∧ r.status ≠ .illegalCommand)

/-- 20_memory.md R53: a packet of another length is refused, a header that is not whole likewise
(log 5), and while nothing is offered the engine waits and no state changes (logs 2 and 4). -/
def Obligations.WrongLengthRefusedAndWaitChangesNothing : Prop :=
  (∀ (s : State) (h : Header) (p : List Byte) (rest : List HostEvent),
    s.inbox = .packet (beBytes 8 h.toNat ++ p) :: rest → p.length ≠ paylen h →
    step s = .refused .notACommand) ∧
  (∀ (s : State) (bytes : List Byte) (rest : List HostEvent),
    s.inbox = .packet bytes :: rest → bytes.length < 8 → step s = .refused .notACommand) ∧
  (∀ s : State, s.inbox = [] → step s = .next s)

/-- A step takes the packet at the head of the command port and runs the decoded instruction. -/
def Obligations.StepRunsDecodedInstruction : Prop :=
  ∀ (s : State) (bytes : List Byte) (rest : List HostEvent) (i : Instr),
    s.inbox = .packet bytes :: rest → decode bytes = .ok i →
    step s = exec i { s with inbox := rest }

/-- 70_reset_and_hazards.md R210, R211: the reset input gives every element its reset value and
leaves the build's constants; the ports' treatment is the model's (log 6). -/
def Obligations.ResetInputClearsEveryElement : Prop :=
  ∀ (s : State) (rest : List HostEvent), s.inbox = .reset :: rest →
    step s = .next
      { kv := false, klen := 0, nr := 0, erk := zeroKeys, drk := zeroKeys, cv := false, ctr := 0
        gv := false, h := 0, hpow := List.replicate s.build.k 0, acc := 0, plo := 0, phi := 0
        pmid := 0, lanes := List.replicate s.build.lanes 0, tmask := 0, aadlen := 0, ctlen := 0
        ks := 0, res := 0, resn := 0, fsm := .uninit, dir := none, lastst := .ok
        build := s.build, inbox := rest, outbox := s.outbox }

/-- 10_state.md R33: the value after reset of every element of its table. -/
def Obligations.ResetStateHasTheTabledValues : Prop :=
  ∀ s : State, s = State.reset →
    s.kv = false ∧ s.klen = 0 ∧ s.nr = 0 ∧ (∀ r, roundKey s.erk r = 0) ∧
    (∀ r, roundKey s.drk r = 0) ∧ s.cv = false ∧ s.ctr = 0 ∧ s.gv = false ∧ s.h = 0 ∧
    (s.hpow.length = s.build.k ∧ ∀ i, hpowAt s.hpow i = 0) ∧ s.acc = 0 ∧
    s.plo = 0 ∧ s.phi = 0 ∧ s.pmid = 0 ∧ s.tmask = 0 ∧ s.aadlen = 0 ∧ s.ctlen = 0 ∧ s.ks = 0 ∧
    s.res = 0 ∧ s.resn = 0 ∧ fsmCode s.fsm = 0 ∧ dirCode s.dir = 0 ∧ statusCode s.lastst = 0

/-! ### The commands, one statement each -/

/-- R100, KEXP. -/
def Obligations.KexpFollowsItsRule : Prop :=
  ∀ (a : BitVec 8) (key : List Byte) (s : State), key.length = a.toNat →
    (s.fsm ≠ .uninit →
      exec (.kexp a key) s = .next
        { s with lastst := .invalidState
                 outbox := s.outbox ++ [{ status := .invalidState, out := [] }] }) ∧
    (s.fsm = .uninit → a.toNat ∉ [16, 24, 32] →
      exec (.kexp a key) s = .next
        { s with kv := false, klen := 0, nr := 0, erk := zeroKeys, drk := zeroKeys
                 gv := false, h := 0, hpow := List.replicate s.build.k 0, acc := 0
                 lastst := .invalidKeyLength
                 outbox := s.outbox ++ [{ status := .invalidKeyLength, out := [] }] }) ∧
    (s.fsm = .uninit → a.toNat ∈ [16, 24, 32] →
      exec (.kexp a key) s = .next
        { s with kv := true, klen := a, nr := BitVec.ofNat 8 (a.toNat / 4 + 6)
                 erk := (keySchedule key).erk, drk := (keySchedule key).drk
                 gv := false, h := 0, hpow := List.replicate s.build.k 0, acc := 0
                 lastst := .ok
                 outbox := s.outbox ++ [{ status := .ok, out := [] }] })

/-- R101, ENCB. -/
def Obligations.EncbFollowsItsRule : Prop :=
  ∀ (a : BitVec 8) (blocks : List Block) (s : State), blocks.length = a.toNat →
    (a.toNat ∉ [1, 2, 4, 8, 16, 32] →
      exec (.encb a blocks) s = .next
        { s with lastst := .illegalCommand
                 outbox := s.outbox ++ [{ status := .illegalCommand, out := [] }] }) ∧
    (a.toNat ∈ [1, 2, 4, 8, 16, 32] → s.kv = false →
      exec (.encb a blocks) s = .next
        { s with lastst := .invalidState
                 outbox := s.outbox ++ [{ status := .invalidState, out := [] }] }) ∧
    (a.toNat ∈ [1, 2, 4, 8, 16, 32] → s.kv = true →
      exec (.encb a blocks) s = .next
        { s with lastst := .ok
                 outbox := s.outbox ++
                  [{ status := .ok
                     out := blocks.flatMap fun b =>
                      blockBytes (encryptBlock s.erk s.nr.toNat b) }] })

/-- R102, DECB. -/
def Obligations.DecbFollowsItsRule : Prop :=
  ∀ (a : BitVec 8) (blocks : List Block) (s : State), blocks.length = a.toNat →
    (a.toNat ∉ [1, 2, 4, 8, 16, 32] →
      exec (.decb a blocks) s = .next
        { s with lastst := .illegalCommand
                 outbox := s.outbox ++ [{ status := .illegalCommand, out := [] }] }) ∧
    (a.toNat ∈ [1, 2, 4, 8, 16, 32] → s.kv = false →
      exec (.decb a blocks) s = .next
        { s with lastst := .invalidState
                 outbox := s.outbox ++ [{ status := .invalidState, out := [] }] }) ∧
    (a.toNat ∈ [1, 2, 4, 8, 16, 32] → s.kv = true →
      exec (.decb a blocks) s = .next
        { s with lastst := .ok
                 outbox := s.outbox ++
                  [{ status := .ok
                     out := blocks.flatMap fun b =>
                      blockBytes (decryptBlock s.drk s.nr.toNat b) }] })

/-- R112, CINIT: CTR is the nonce followed by 00 00 00 01. -/
def Obligations.CinitFollowsItsRule : Prop :=
  ∀ (nonce : Nonce) (s : State),
    (s.fsm ≠ .uninit →
      exec (.cinit nonce) s = .next
        { s with lastst := .invalidState
                 outbox := s.outbox ++ [{ status := .invalidState, out := [] }] }) ∧
    (s.fsm = .uninit →
      exec (.cinit nonce) s = .next
        { s with cv := true
                 ctr := blockOfBytes (beBytes 12 nonce.toNat ++ [0x00, 0x00, 0x00, 0x01])
                 lastst := .ok
                 outbox := s.outbox ++ [{ status := .ok, out := [] }] })

/-- R113, CNEXT: all `a` blocks or none. -/
def Obligations.CnextFollowsItsRule : Prop :=
  ∀ (a : BitVec 8) (s : State),
    (32 < a.toNat →
      exec (.cnext a) s = .next
        { s with lastst := .illegalCommand
                 outbox := s.outbox ++ [{ status := .illegalCommand, out := [] }] }) ∧
    (a.toNat ≤ 32 → s.fsm ≠ .uninit ∨ s.cv = false →
      exec (.cnext a) s = .next
        { s with lastst := .invalidState
                 outbox := s.outbox ++ [{ status := .invalidState, out := [] }] }) ∧
    (a.toNat ≤ 32 → s.fsm = .uninit → s.cv = true →
      0xFFFFFFFF < (blockCounter s.ctr).toNat + a.toNat →
      exec (.cnext a) s = .next
        { s with lastst := .messageTooLong
                 outbox := s.outbox ++ [{ status := .messageTooLong, out := [] }] }) ∧
    (a.toNat ≤ 32 → s.fsm = .uninit → s.cv = true →
      (blockCounter s.ctr).toNat + a.toNat ≤ 0xFFFFFFFF →
      exec (.cnext a) s = .next
        { s with ctr := inc32 s.ctr a.toNat
                 lastst := .ok
                 outbox := s.outbox ++
                  [{ status := .ok
                     out := (List.range a.toNat).flatMap fun i =>
                      blockBytes (inc32 s.ctr (i + 1)) }] })

/-- R142 with R130, GINIT: HPOW[i] = H^i for 1 ≤ i ≤ K. -/
def Obligations.GinitFollowsItsRule : Prop :=
  ∀ s : State,
    (s.fsm ≠ .uninit ∨ s.kv = false →
      exec .ginit s = .next
        { s with lastst := .invalidState
                 outbox := s.outbox ++ [{ status := .invalidState, out := [] }] }) ∧
    (s.fsm = .uninit → s.kv = true →
      ∃ table : List Block, powersHeld s.build.k table (encryptBlock s.erk s.nr.toNat 0) ∧
        exec .ginit s = .next
          { s with gv := true, h := encryptBlock s.erk s.nr.toNat 0, hpow := table, acc := 0
                   lastst := .ok
                   outbox := s.outbox ++ [{ status := .ok, out := [] }] })

/-- R132 with R131, GFOLD. -/
def Obligations.GfoldFollowsItsRule : Prop :=
  ∀ (block : Block) (s : State),
    (s.fsm ≠ .uninit ∨ s.gv = false →
      exec (.gfold block) s = .next
        { s with lastst := .invalidState
                 outbox := s.outbox ++ [{ status := .invalidState, out := [] }] }) ∧
    (s.fsm = .uninit → s.gv = true →
      exec (.gfold block) s = .next
        { s with acc := gfmul (s.acc ^^^ block) s.h
                 lastst := .ok
                 outbox := s.outbox ++ [{ status := .ok, out := [] }] })

/-- R143, GFOLDN: the aggregated fold of R137. The partial products are dead afterwards, and nothing
is said of them here. -/
def Obligations.GfoldnFollowsItsRule : Prop :=
  ∀ (a : BitVec 8) (blocks : List Block) (s : State), blocks.length = a.toNat →
    (a.toNat < 1 ∨ s.build.k < a.toNat →
      exec (.gfoldn a blocks) s = .next
        { s with lastst := .illegalCommand
                 outbox := s.outbox ++ [{ status := .illegalCommand, out := [] }] }) ∧
    (1 ≤ a.toNat → a.toNat ≤ s.build.k → s.fsm ≠ .uninit ∨ s.gv = false →
      exec (.gfoldn a blocks) s = .next
        { s with lastst := .invalidState
                 outbox := s.outbox ++ [{ status := .invalidState, out := [] }] }) ∧
    (1 ≤ a.toNat → a.toNat ≤ s.build.k → s.fsm = .uninit → s.gv = true →
      ∃ plo phi pmid : BitVec 128, exec (.gfoldn a blocks) s = .next
        { s with acc := foldAgg s.hpow s.acc blocks, plo := plo, phi := phi, pmid := pmid
                 lastst := .ok
                 outbox := s.outbox ++ [{ status := .ok, out := [] }] })

/-- R144, GFINAL: the accumulator after the fold is kept and returned. -/
def Obligations.GfinalFollowsItsRule : Prop :=
  ∀ (block : Block) (s : State),
    (s.fsm ≠ .uninit ∨ s.gv = false →
      exec (.gfinal block) s = .next
        { s with lastst := .invalidState
                 outbox := s.outbox ++ [{ status := .invalidState, out := [] }] }) ∧
    (s.fsm = .uninit → s.gv = true →
      exec (.gfinal block) s = .next
        { s with acc := gfmul (s.acc ^^^ block) s.h
                 lastst := .ok
                 outbox := s.outbox ++
                  [{ status := .ok, out := blockBytes (gfmul (s.acc ^^^ block) s.h) }] })

/-- R151, GCM_INIT: legal in every state; on an illegal key length the state stays wiped. -/
def Obligations.GcmInitFollowsItsRule : Prop :=
  ∀ (a : BitVec 8) (len : BitVec 48) (key : List Byte) (nonce : Nonce) (aad : List Byte)
    (s : State), key.length = a.toNat → aad.length = len.toNat →
    (a.toNat ∉ [16, 24, 32] →
      exec (.gcmInit a len key nonce aad) s = .next
        { kv := false, klen := 0, nr := 0, erk := zeroKeys, drk := zeroKeys, cv := false, ctr := 0
          gv := false, h := 0, hpow := List.replicate s.build.k 0, acc := 0, plo := 0, phi := 0
          pmid := 0, lanes := List.replicate s.build.lanes 0, tmask := 0, aadlen := 0, ctlen := 0
          ks := 0, res := 0, resn := 0, fsm := .uninit, dir := none
          lastst := .invalidKeyLength, build := s.build, inbox := s.inbox
          outbox := s.outbox ++ [{ status := .invalidKeyLength, out := [] }] }) ∧
    (a.toNat ∈ [16, 24, 32] →
      ∃ table : List Block, powersHeld s.build.k table (gcmSubkey (keySchedule key)) ∧
      exec (.gcmInit a len key nonce aad) s = .next
        { kv := true, klen := a, nr := BitVec.ofNat 8 (a.toNat / 4 + 6)
          erk := (keySchedule key).erk, drk := (keySchedule key).drk
          cv := true, ctr := blockOfBytes (beBytes 12 nonce.toNat ++ [0x00, 0x00, 0x00, 0x01])
          gv := true, h := gcmSubkey (keySchedule key), hpow := table
          acc := foldBytes (gcmSubkey (keySchedule key)) 0 aad
          plo := 0, phi := 0, pmid := 0, lanes := List.replicate s.build.lanes 0
          tmask := encryptBlock (keySchedule key).erk (keySchedule key).nr
            (blockOfBytes (beBytes 12 nonce.toNat ++ [0x00, 0x00, 0x00, 0x01]))
          aadlen := BitVec.ofNat 64 len.toNat, ctlen := 0, ks := 0, res := 0, resn := 0
          fsm := .keynonce, dir := none, lastst := .ok, build := s.build, inbox := s.inbox
          outbox := s.outbox ++ [{ status := .ok, out := [] }] })

/-- R152, the loop of an update byte by byte. -/
def Obligations.UpdateLoopTakesOneByteAtATime : Prop :=
  (∀ (d : Direction) (s : State), s.updateBytes d [] = (s, [])) ∧
  (∀ (d : Direction) (s : State) (x : Byte) (xs : List Byte) (ctr ks res : Block) (o : Byte)
      (s' : State),
    ctr = (if s.resn = 0 then inc32 s.ctr 1 else s.ctr) →
    ks = (if s.resn = 0 then encryptBlock s.erk s.nr.toNat ctr else s.ks) →
    o = x ^^^ byteAt ks s.resn.toNat →
    res = setByteAt s.res s.resn.toNat (match d with | .enc => o | .dec => x) →
    s' = (if s.resn.toNat = 15 then
            { s with ctr := ctr, ks := ks, acc := gfmul (s.acc ^^^ res) s.h, res := 0, resn := 0 }
          else { s with ctr := ctr, ks := ks, res := res, resn := s.resn + 1 }) →
    s.updateBytes d (x :: xs) =
      ((s'.updateBytes d xs).1, o :: (s'.updateBytes d xs).2))

/-- R153 with R152 and R186, GCM_ENC. -/
def Obligations.GcmEncFollowsItsRule : Prop :=
  ∀ (len : BitVec 48) (p : List Byte) (s : State), p.length = len.toNat →
    (s.fsm = .uninit ∨ s.fsm = .final ∨ s.dir = some .dec →
      exec (.gcmEnc len p) s = .next
        { s with lastst := .invalidState
                 outbox := s.outbox ++ [{ status := .invalidState, out := [] }] }) ∧
    (s.fsm = .keynonce ∨ s.fsm = .stream → s.dir ≠ some .dec →
      0xFFFFFFFF < (blockCounter s.ctr).toNat + blocksNeeded s.resn.toNat len.toNat →
      exec (.gcmEnc len p) s = .next
        { s with fsm := .final, acc := 0, ks := 0, res := 0, resn := 0
                 lastst := .messageTooLong
                 outbox := s.outbox ++ [{ status := .messageTooLong, out := [] }] }) ∧
    (s.fsm = .keynonce ∨ s.fsm = .stream → s.dir ≠ some .dec →
      (blockCounter s.ctr).toNat + blocksNeeded s.resn.toNat len.toNat ≤ 0xFFFFFFFF →
      ∃ (ctr ks res : Block) (resn : BitVec 4) (acc : Block) (out : List Byte),
        s.updateBytes .enc p =
          ({ s with ctr := ctr, ks := ks, res := res, resn := resn, acc := acc }, out) ∧
        out.length = len.toNat ∧ resn.toNat = (s.resn.toNat + len.toNat) % 16 ∧
        exec (.gcmEnc len p) s = .next
          { s with ctr := ctr, ks := ks, res := res, resn := resn, acc := acc
                   ctlen := s.ctlen + BitVec.ofNat 64 len.toNat, dir := some .enc, fsm := .stream
                   lastst := .ok
                   outbox := s.outbox ++ [{ status := .ok, out := out }] })

/-- R154 with R152 and R186, GCM_DEC. -/
def Obligations.GcmDecFollowsItsRule : Prop :=
  ∀ (len : BitVec 48) (p : List Byte) (s : State), p.length = len.toNat →
    (s.fsm = .uninit ∨ s.fsm = .final ∨ s.dir = some .enc →
      exec (.gcmDec len p) s = .next
        { s with lastst := .invalidState
                 outbox := s.outbox ++ [{ status := .invalidState, out := [] }] }) ∧
    (s.fsm = .keynonce ∨ s.fsm = .stream → s.dir ≠ some .enc →
      0xFFFFFFFF < (blockCounter s.ctr).toNat + blocksNeeded s.resn.toNat len.toNat →
      exec (.gcmDec len p) s = .next
        { s with fsm := .final, acc := 0, ks := 0, res := 0, resn := 0
                 lastst := .messageTooLong
                 outbox := s.outbox ++ [{ status := .messageTooLong, out := [] }] }) ∧
    (s.fsm = .keynonce ∨ s.fsm = .stream → s.dir ≠ some .enc →
      (blockCounter s.ctr).toNat + blocksNeeded s.resn.toNat len.toNat ≤ 0xFFFFFFFF →
      ∃ (ctr ks res : Block) (resn : BitVec 4) (acc : Block) (out : List Byte),
        s.updateBytes .dec p =
          ({ s with ctr := ctr, ks := ks, res := res, resn := resn, acc := acc }, out) ∧
        out.length = len.toNat ∧ resn.toNat = (s.resn.toNat + len.toNat) % 16 ∧
        exec (.gcmDec len p) s = .next
          { s with ctr := ctr, ks := ks, res := res, resn := resn, acc := acc
                   ctlen := s.ctlen + BitVec.ofNat 64 len.toNat, dir := some .dec, fsm := .stream
                   lastst := .ok
                   outbox := s.outbox ++ [{ status := .ok, out := out }] })

/-- R160 with R161, GCM_FINAL: the partial block, the length block, the mask, the leftmost `a` bytes. -/
def Obligations.GcmFinalFollowsItsRule : Prop :=
  ∀ (a : BitVec 8) (s : State),
    (a.toNat < 1 ∨ 16 < a.toNat →
      exec (.gcmFinal a) s = .next
        { s with lastst := .illegalCommand
                 outbox := s.outbox ++ [{ status := .illegalCommand, out := [] }] }) ∧
    (1 ≤ a.toNat → a.toNat ≤ 16 → s.fsm = .uninit ∨ s.fsm = .final →
      exec (.gcmFinal a) s = .next
        { s with lastst := .invalidState
                 outbox := s.outbox ++ [{ status := .invalidState, out := [] }] }) ∧
    (1 ≤ a.toNat → a.toNat ≤ 16 → s.fsm = .keynonce ∨ s.fsm = .stream →
      ∀ acc acc' : Block,
        acc = (if s.resn.toNat > 0 then gfmul (s.acc ^^^ s.res) s.h else s.acc) →
        acc' = gfmul (acc ^^^ lenBlock s.aadlen s.ctlen) s.h →
        exec (.gcmFinal a) s = .next
          { s with acc := acc', resn := 0, res := 0, ks := 0, fsm := .final
                   lastst := .ok
                   outbox := s.outbox ++
                    [{ status := .ok, out := (blockBytes (acc' ^^^ s.tmask)).take a.toNat }] })

/-- R162 with R161 and R187, GCM_VERIFY: OK exactly when all `a` bytes agree, TagMismatch otherwise;
no output, and the same effects, on both endings. -/
def Obligations.GcmVerifyFollowsItsRule : Prop :=
  ∀ (a : BitVec 8) (tag : List Byte) (s : State), tag.length = a.toNat →
    (a.toNat < 1 ∨ 16 < a.toNat →
      exec (.gcmVerify a tag) s = .next
        { s with lastst := .illegalCommand
                 outbox := s.outbox ++ [{ status := .illegalCommand, out := [] }] }) ∧
    (1 ≤ a.toNat → a.toNat ≤ 16 → s.fsm = .uninit ∨ s.fsm = .final →
      exec (.gcmVerify a tag) s = .next
        { s with lastst := .invalidState
                 outbox := s.outbox ++ [{ status := .invalidState, out := [] }] }) ∧
    (1 ≤ a.toNat → a.toNat ≤ 16 → s.fsm = .keynonce ∨ s.fsm = .stream →
      ∀ (acc acc' : Block) (st : Status),
        acc = (if s.resn.toNat > 0 then gfmul (s.acc ^^^ s.res) s.h else s.acc) →
        acc' = gfmul (acc ^^^ lenBlock s.aadlen s.ctlen) s.h →
        st = (if tag = (blockBytes (acc' ^^^ s.tmask)).take a.toNat then .ok else .tagMismatch) →
        exec (.gcmVerify a tag) s = .next
          { s with acc := acc', resn := 0, res := 0, ks := 0, fsm := .final
                   lastst := st
                   outbox := s.outbox ++ [{ status := st, out := [] }] })

/-- R170, RDST: 24 bytes, and no state written, LASTST included. -/
def Obligations.RdstFollowsItsRule : Prop :=
  ∀ s : State,
    exec .rdst s = .next
      { s with outbox := s.outbox ++
                [{ status := .ok
                   out := beBytes 8 (statusWord s).toNat ++ beBytes 8 s.aadlen.toNat
                    ++ beBytes 8 s.ctlen.toNat }] }

/-- R172, ZEROIZE: the reset value in every element, LASTST then 0. -/
def Obligations.ZeroizeFollowsItsRule : Prop :=
  ∀ s : State,
    exec .zeroize s = .next
      { kv := false, klen := 0, nr := 0, erk := zeroKeys, drk := zeroKeys, cv := false, ctr := 0
        gv := false, h := 0, hpow := List.replicate s.build.k 0, acc := 0, plo := 0, phi := 0
        pmid := 0, lanes := List.replicate s.build.lanes 0, tmask := 0, aadlen := 0, ctlen := 0
        ks := 0, res := 0, resn := 0, fsm := .uninit, dir := none, lastst := .ok
        build := s.build, inbox := s.inbox
        outbox := s.outbox ++ [{ status := .ok, out := [] }] }

/-- R136: the length block, the AAD length first, both big-endian bit counts. -/
def Obligations.LengthBlockSpellsBothBitLengths : Prop :=
  ∀ aad ct : BitVec 64, 8 * aad.toNat < 2 ^ 64 → 8 * ct.toNat < 2 ^ 64 →
    blockBytes (lenBlock aad ct) = beBytes 8 (8 * aad.toNat) ++ beBytes 8 (8 * ct.toNat)

/-- R171: the fields of the status word, and the codes their values column gives. -/
def Obligations.StatusWordFieldsAreWhereTabled : Prop :=
  [Status.ok, .invalidKeyLength, .invalidState, .messageTooLong, .tagMismatch, .illegalCommand].map
    statusCode = [0, 1, 2, 3, 4, 5] ∧
  [Fsm.uninit, .keynonce, .stream, .final].map fsmCode = [0, 1, 2, 3] ∧
  [none, some Direction.enc, some Direction.dec].map dirCode = [0, 1, 2] ∧
  [Tier.reference, .narrowVector, .wideVector].map tierCode = [0, 1, 2] ∧
  (∀ s : State, s.build.k ≤ 32 →
    (statusWord s).extractLsb' 56 8 = statusCode s.lastst ∧
    (statusWord s).extractLsb' 54 2 = fsmCode s.fsm ∧
    (statusWord s).extractLsb' 52 2 = dirCode s.dir ∧
    (statusWord s).getLsbD 51 = s.kv ∧ (statusWord s).getLsbD 50 = s.cv ∧
    (statusWord s).getLsbD 49 = s.gv ∧ (statusWord s).getLsbD 48 = false ∧
    (statusWord s).extractLsb' 40 8 = s.klen ∧ (statusWord s).extractLsb' 32 8 = s.nr ∧
    ((statusWord s).extractLsb' 24 8).toNat = s.resn.toNat ∧
    ((statusWord s).extractLsb' 16 8).toNat = s.build.k ∧
    (statusWord s).extractLsb' 8 8 = tierCode s.build.tier ∧
    (statusWord s).extractLsb' 0 8 = 0)

/-! ### The block cipher -/

/-- R83 and R84: SBOX is the inverse in GF(2^8) followed by the affine map, INV_SBOX undoes it, and
both are the tables of the rules, written out here again row by row. -/
def Obligations.SboxTablesAreTheAffineInverse : Prop :=
  (∀ v : Byte, ∃ b : Byte, (v = 0 → b = 0) ∧ (v ≠ 0 → gmul8 v b = 1) ∧
    sbox v = b ^^^ b.rotateLeft 1 ^^^ b.rotateLeft 2 ^^^ b.rotateLeft 3 ^^^ b.rotateLeft 4
      ^^^ 0x63#8) ∧
  (∀ v : Byte, invSbox (sbox v) = v) ∧
  ((List.range 256).map fun v => sbox (BitVec.ofNat 8 v)) = bytesOfBlocks
    [ 0x637c777bf26b6fc53001672bfed7ab76#128, 0xca82c97dfa5947f0add4a2af9ca472c0#128,
      0xb7fd9326363ff7cc34a5e5f171d83115#128, 0x04c723c31896059a071280e2eb27b275#128,
      0x09832c1a1b6e5aa0523bd6b329e32f84#128, 0x53d100ed20fcb15b6acbbe394a4c58cf#128,
      0xd0efaafb434d338545f9027f503c9fa8#128, 0x51a3408f929d38f5bcb6da2110fff3d2#128,
      0xcd0c13ec5f974417c4a77e3d645d1973#128, 0x60814fdc222a908846eeb814de5e0bdb#128,
      0xe0323a0a4906245cc2d3ac629195e479#128, 0xe7c8376d8dd54ea96c56f4ea657aae08#128,
      0xba78252e1ca6b4c6e8dd741f4bbd8b8a#128, 0x703eb5664803f60e613557b986c11d9e#128,
      0xe1f8981169d98e949b1e87e9ce5528df#128, 0x8ca1890dbfe6426841992d0fb054bb16#128 ] ∧
  ((List.range 256).map fun v => invSbox (BitVec.ofNat 8 v)) = bytesOfBlocks
    [ 0x52096ad53036a538bf40a39e81f3d7fb#128, 0x7ce339829b2fff87348e4344c4dee9cb#128,
      0x547b9432a6c2233dee4c950b42fac34e#128, 0x082ea16628d924b2765ba2496d8bd125#128,
      0x72f8f66486689816d4a45ccc5d65b692#128, 0x6c704850fdedb9da5e154657a78d9d84#128,
      0x90d8ab008cbcd30af7e45805b8b34506#128, 0xd02c1e8fca3f0f02c1afbd0301138a6b#128,
      0x3a9111414f67dcea97f2cfcef0b4e673#128, 0x96ac7422e7ad3585e2f937e81c75df6e#128,
      0x47f11a711d29c5896fb7620eaa18be1b#128, 0xfc563e4bc6d279209adbc0fe78cd5af4#128,
      0x1fdda8338807c731b11210592780ec5f#128, 0x60517fa919b54a0d2de57a9f93c99cef#128,
      0xa0e03b4dae2af5b0c8ebbb3c83539961#128, 0x172b047eba77d626e169146355210c7d#128 ]

/-- R88: InvMixColumns column by column, its linearity, and that it undoes MixColumns. -/
def Obligations.InvMixColumnsUndoesMixColumns : Prop :=
  (∀ b : Block, invMixColumns (mixColumns b) = b) ∧
  (∀ x y : Block, invMixColumns (x ^^^ y) = invMixColumns x ^^^ invMixColumns y) ∧
  (∀ (b : Block) (c : Nat) (a0 a1 a2 a3 : Byte), c < 4 →
    a0 = byteAt b (4 * c) → a1 = byteAt b (4 * c + 1) → a2 = byteAt b (4 * c + 2) →
    a3 = byteAt b (4 * c + 3) →
    byteAt (invMixColumns b) (4 * c) = gmul8 a0 14 ^^^ gmul8 a1 11 ^^^ gmul8 a2 13 ^^^ gmul8 a3 9 ∧
    byteAt (invMixColumns b) (4 * c + 1)
      = gmul8 a0 9 ^^^ gmul8 a1 14 ^^^ gmul8 a2 11 ^^^ gmul8 a3 13 ∧
    byteAt (invMixColumns b) (4 * c + 2)
      = gmul8 a0 13 ^^^ gmul8 a1 9 ^^^ gmul8 a2 14 ^^^ gmul8 a3 11 ∧
    byteAt (invMixColumns b) (4 * c + 3)
      = gmul8 a0 11 ^^^ gmul8 a1 13 ^^^ gmul8 a2 9 ^^^ gmul8 a3 14)

/-- 40_blockcipher.md section 3, the recurrence of the key schedule and the decryption schedule, for
every key of legal length. -/
def Obligations.KeyScheduleFollowsTheRecurrence : Prop :=
  ∀ (key : List Byte) (nk nr : Nat), key.length ∈ [16, 24, 32] → nk = key.length / 4 → nr = nk + 6 →
    (keySchedule key).nr = nr ∧
    (∃ w : Nat → Word32,
      (∀ i, i < nk → w i = wordOfBytes ((key.drop (4 * i)).take 4)) ∧
      (∀ i, nk ≤ i → i < 4 * (nr + 1) →
        w i = w (i - nk) ^^^
          (if i % nk = 0 then
            subWord (rotWord (w (i - 1))) ^^^ ((rcon (i / nk)).setWidth 32 <<< 24)
          else if nk = 8 ∧ i % nk = 4 then subWord (w (i - 1))
          else w (i - 1))) ∧
      (∀ r, r ≤ nr → roundKey (keySchedule key).erk r
        = w (4 * r) ++ w (4 * r + 1) ++ w (4 * r + 2) ++ w (4 * r + 3))) ∧
    (∀ r, nr < r → roundKey (keySchedule key).erk r = 0 ∧ roundKey (keySchedule key).drk r = 0) ∧
    roundKey (keySchedule key).drk 0 = roundKey (keySchedule key).erk nr ∧
    (∀ r, 1 ≤ r → r < nr →
      roundKey (keySchedule key).drk r = invMixColumns (roundKey (keySchedule key).erk (nr - r))) ∧
    roundKey (keySchedule key).drk nr = roundKey (keySchedule key).erk 0

/-- 40_blockcipher.md section 3: D undoes E and E undoes D under every key of legal length. -/
def Obligations.DecryptionUndoesEncryption : Prop :=
  ∀ (key : List Byte) (b : Block), key.length ∈ [16, 24, 32] →
    decryptBlock (keySchedule key).drk (keySchedule key).nr
      (encryptBlock (keySchedule key).erk (keySchedule key).nr b) = b ∧
    encryptBlock (keySchedule key).erk (keySchedule key).nr
      (decryptBlock (keySchedule key).drk (keySchedule key).nr b) = b

/-- 40_blockcipher.md section 3 and 44_system.md section 2: blocks in lanes are encrypted, and
decrypted, as one by one, whatever LANES is. -/
def Obligations.LaneCipherIsBlockwise : Prop :=
  ∀ (L : Nat) (rk : RoundKeys) (nr : Nat) (bs : List Block), 1 ≤ L →
    encryptLanes L rk nr bs = bs.map (encryptBlock rk nr) ∧
    decryptLanes L rk nr bs = bs.map (decryptBlock rk nr)

/-! ### The counter -/

/-- R111: `inc32` copies the nonce and adds big-endian, with no carry out of the four bytes. -/
def Obligations.Inc32AddsInTheLastFourBytes : Prop :=
  ∀ (c : Block) (n : Nat), beNat ((blockBytes c).drop 12) + n ≤ 0xFFFFFFFF →
    blockBytes (inc32 c n) =
      (blockBytes c).take 12 ++ beBytes 4 (beNat ((blockBytes c).drop 12) + n)

/-- 41_counter.md section 2: counter lanes, with the byte-reversed image, issue the same blocks. -/
def Obligations.LaneCountersIssueTheSameBlocks : Prop :=
  ∀ (L : Nat) (c : Block) (m : Nat), 1 ≤ L → (blockCounter c).toNat + m ≤ 0xFFFFFFFF →
    issueLanes L c m = (List.range m).map fun i => inc32 c (i + 1)

/-- 41_counter.md section 1: between one seed and the next the block counter never decreases and the
nonce never changes. -/
def Obligations.CounterNeverGoesBack : Prop :=
  ∀ (i : Instr) (s t : State), exec i s = .next t →
    instrOpcode i ∉ [.cinit, .gcmInit, .zeroize] →
    t.cv = s.cv ∧ nonceOf t.ctr = nonceOf s.ctr ∧
    (blockCounter s.ctr).toNat ≤ (blockCounter t.ctr).toNat

/-! ### The hash -/

/-- 42_galois.md section 1: the laws of the field product. -/
def Obligations.FieldProductLaws : Prop :=
  (∀ x y : Block, gfmul x y = gfmul y x) ∧
  (∀ x y z : Block, gfmul (gfmul x y) z = gfmul x (gfmul y z)) ∧
  (∀ x y z : Block, gfmul (x ^^^ y) z = gfmul x z ^^^ gfmul y z) ∧
  (∀ y : Block, gfmul 0 y = 0) ∧
  (∀ y : Block, gfmul gfOne y = y)

/-- 42_galois.md section 2: the datapath multiplication is the reference multiplication. -/
def Obligations.DatapathProductIsTheReference : Prop :=
  ∀ x y : Block, gfmulDp x y = gfmul x y

/-- 42_galois.md section 4: one aggregated fold of n blocks is n simple folds. -/
def Obligations.AggregatedFoldIsSequential : Prop :=
  ∀ (k : Nat) (table : List Block) (h acc : Block) (bs : List Block),
    powersHeld k table h → 1 ≤ bs.length → bs.length ≤ k →
    foldAgg table acc bs = bs.foldl (fun acc b => gfmul (acc ^^^ b) h) acc

/-- 42_galois.md section 4: the width descent uses tabled widths only, skips no block, folds none
twice, and gives the sequential result whatever K is. -/
def Obligations.WidthDescentIsSequential : Prop :=
  (∀ m : Nat, (descentWidths m).sum = m ∧ ∀ w ∈ descentWidths m, w ∈ [32, 16, 8, 4, 1]) ∧
  (∀ (k : Nat) (table : List Block) (h acc : Block) (bs : List Block),
    powersHeld k table h → 1 ≤ k →
    foldDescent k table h acc bs = bs.foldl (fun acc b => gfmul (acc ^^^ b) h) acc)

/-- 42_galois.md section 3: the closed form of n folds, the oldest block under the highest power. -/
def Obligations.FoldsHaveTheClosedForm : Prop :=
  ∀ (h acc : Block) (bs : List Block),
    bs.foldl (fun acc b => gfmul (acc ^^^ b) h) acc =
      (List.range bs.length).foldl
        (fun z i => z ^^^ gfmul (bs[i]?.getD 0) (gfPow h (bs.length - i)))
        (gfmul acc (gfPow h bs.length))

/-! ### Messages -/

/-- 43_aead_sequencer.md section 3: the three phases of the parallel update leave the output and the
state of the byte-serial rule, for every K and LANES. -/
def Obligations.ParallelUpdateIsByteSerial : Prop :=
  ∀ (d : Direction) (p : List Byte) (s : State),
    s.build.legal → powersHeld s.build.k s.hpow s.h →
    (∀ i, s.resn.toNat ≤ i → i < 16 → byteAt s.res i = 0) →
    canIssue s.ctr (blocksNeeded s.resn.toNat p.length) →
    s.updateParallel d p = s.updateBytes d p

/-- 43_aead_sequencer.md section 3: two updates leave what one update of the joined bytes leaves. -/
def Obligations.SplitOfAnUpdateDoesNotShow : Prop :=
  ∀ (d : Direction) (p q : List Byte) (s : State),
    s.streamOpen → s.directionFree d →
    canIssue s.ctr (blocksNeeded s.resn.toNat (p.length + q.length)) →
    ∃ (t u v : State) (o1 o2 : List Byte),
      exec (updateInstr d p) s = .next t ∧ exec (updateInstr d q) t = .next u ∧
      exec (updateInstr d (p ++ q)) s = .next v ∧
      t.outbox = s.outbox ++ [{ status := .ok, out := o1 }] ∧
      u.outbox = t.outbox ++ [{ status := .ok, out := o2 }] ∧
      v.outbox = s.outbox ++ [{ status := .ok, out := o1 ++ o2 }] ∧
      v = { u with outbox := v.outbox }

/-- 43_aead_sequencer.md section 3: decrypting the ciphertext returns the plaintext and goes through
the same state, direction aside. -/
def Obligations.DecryptionRetracesEncryption : Prop :=
  ∀ (p : List Byte) (s : State),
    s.streamOpen → s.dir = none → canIssue s.ctr (blocksNeeded s.resn.toNat p.length) →
    ∃ (t u : State) (c : List Byte),
      exec (updateInstr .enc p) s = .next t ∧
      t.outbox = s.outbox ++ [{ status := .ok, out := c }] ∧
      exec (updateInstr .dec c) s = .next u ∧
      u.outbox = s.outbox ++ [{ status := .ok, out := p }] ∧
      u = { t with dir := some .dec, outbox := u.outbox }

/-- 43_aead_sequencer.md section 5: GCM_INIT, any number of GCM_ENC, GCM_FINAL, from any state. -/
def Obligations.EncryptedMessageIsGcm : Prop :=
  ∀ (a t : BitVec 8) (len : BitVec 48) (key : List Byte) (nonce : Nonce) (aad : List Byte)
    (parts : List (List Byte)) (s : State),
    key.length = a.toNat → a.toNat ∈ [16, 24, 32] → aad.length = len.toNat →
    (∀ p ∈ parts, p.length < 2 ^ 48) → parts.flatten.length ≤ 16 * (2 ^ 32 - 2) →
    1 ≤ t.toNat → t.toNat ≤ 16 →
    ∃ (u : State) (outs : List (List Byte)),
      runCommands ([.gcmInit a len key nonce aad] ++ parts.map (updateInstr .enc)
        ++ [.gcmFinal t]) s = .next u ∧
      outs.map List.length = parts.map List.length ∧
      outs.flatten = gcmText (keySchedule key) nonce parts.flatten ∧
      u.outbox = s.outbox ++ [{ status := .ok, out := [] }]
        ++ outs.map (fun o => ({ status := .ok, out := o } : Response))
        ++ [{ status := .ok
              out := (blockBytes (gcmTag (keySchedule key) nonce aad outs.flatten)).take t.toNat }]

/-- 43_aead_sequencer.md section 5: GCM_INIT, any number of GCM_DEC, GCM_VERIFY, from any state: the
text comes back, and the verification ends OK exactly when the tag is the message's. -/
def Obligations.DecryptedMessageIsVerified : Prop :=
  ∀ (a t : BitVec 8) (len : BitVec 48) (key : List Byte) (nonce : Nonce) (aad tag : List Byte)
    (parts : List (List Byte)) (s : State),
    key.length = a.toNat → a.toNat ∈ [16, 24, 32] → aad.length = len.toNat →
    (∀ p ∈ parts, p.length < 2 ^ 48) → parts.flatten.length ≤ 16 * (2 ^ 32 - 2) →
    1 ≤ t.toNat → t.toNat ≤ 16 → tag.length = t.toNat →
    ∃ (u : State) (outs : List (List Byte)) (st : Status),
      runCommands ([.gcmInit a len key nonce aad] ++ parts.map (updateInstr .dec)
        ++ [.gcmVerify t tag]) s = .next u ∧
      outs.map List.length = parts.map List.length ∧
      outs.flatten = gcmText (keySchedule key) nonce parts.flatten ∧
      st = (if tag = (blockBytes (gcmTag (keySchedule key) nonce aad parts.flatten)).take t.toNat
            then .ok else .tagMismatch) ∧
      u.outbox = s.outbox ++ [{ status := .ok, out := [] }]
        ++ outs.map (fun o => ({ status := .ok, out := o } : Response)) ++ [{ status := st, out := [] }]

/-- 43_aead_sequencer.md section 3: an update is refused as too long exactly when the message would
pass 16·(2^32 − 2) bytes. -/
def Obligations.MessageLimitIsExact : Prop :=
  ∀ (d : Direction) (p : List Byte) (s t : State),
    Inv s → s.streamOpen → s.directionFree d → p.length < 2 ^ 48 →
    exec (updateInstr d p) s = .next t →
    (t.lastst = .messageTooLong ↔ 16 * (2 ^ 32 - 2) < s.ctlen.toNat + p.length)

/-! ### Laws of all commands -/

/-- 10_state.md section 6: the commands that return no data of a unit answer by the visible elements
alone; GCM_VERIFY returns no byte in either ending, and CNEXT shows no more than CTR. -/
def Obligations.SecretsDoNotShow : Prop :=
  (∀ (i : Instr) (s t s' t' : State),
    instrOpcode i ∈ [.kexp, .cinit, .ginit, .gfold, .gfoldn, .gcmInit, .rdst, .zeroize] →
    s.lastst = t.lastst → s.fsm = t.fsm → s.dir = t.dir → s.kv = t.kv → s.cv = t.cv →
    s.gv = t.gv → s.klen = t.klen → s.nr = t.nr → s.resn = t.resn → s.build.k = t.build.k →
    s.build.tier = t.build.tier → s.aadlen = t.aadlen → s.ctlen = t.ctlen →
    s.outbox = [] → t.outbox = [] → exec i s = .next s' → exec i t = .next t' →
    s'.outbox = t'.outbox) ∧
  (∀ (a : BitVec 8) (s t s' t' : State),
    s.fsm = t.fsm → s.cv = t.cv → s.ctr = t.ctr → s.outbox = [] → t.outbox = [] →
    exec (.cnext a) s = .next s' → exec (.cnext a) t = .next t' → s'.outbox = t'.outbox) ∧
  (∀ (a : BitVec 8) (tag : List Byte) (s t : State), exec (.gcmVerify a tag) s = .next t →
    ∃ st, t.outbox = s.outbox ++ [{ status := st, out := [] }])

/-- 60_exceptions.md sections 1 and 3: every command is answered by one response; its status is the
first cause in the order of priority, and one the command can end with; every command but RDST
latches it; nothing is taken from the command port beyond the packet. -/
def Obligations.EveryCommandEndsByPriority : Prop :=
  ∀ (i : Instr) (s : State), i.WellFormed →
    ∃ (t : State) (r : Response), exec i s = .next t ∧ t.outbox = s.outbox ++ [r] ∧
      r.status = reportedStatus i s ∧ r.status ∈ possibleStatuses i ∧
      t.lastst = (if i = .rdst then s.lastst else r.status) ∧
      t.inbox = s.inbox ∧ t.build = s.build

/-- R185: the causes of InvalidState, complete, and that it changes nothing but LASTST. -/
def Obligations.InvalidStateCausesAreComplete : Prop :=
  ∀ (i : Instr) (s : State), operandLegal s.build i = true →
    (invalidStateCause s i = true →
      exec i s = .next
        { s with lastst := .invalidState
                 outbox := s.outbox ++ [{ status := .invalidState, out := [] }] }) ∧
    (invalidStateCause s i = false →
      ∃ (t : State) (r : Response), exec i s = .next t ∧ t.outbox = s.outbox ++ [r] ∧ r.status ≠ .invalidState)

/-- 60_exceptions.md section 2: once an update has ended MessageTooLong, no run of commands without
GCM_INIT or ZEROIZE reopens the message, so none returns a tag for it. -/
def Obligations.AbortedStreamYieldsNoTag : Prop :=
  ∀ (d : Direction) (p : List Byte) (s t u : State) (is : List Instr),
    exec (updateInstr d p) s = .next t → t.lastst = .messageTooLong →
    (∀ i ∈ is, instrOpcode i ≠ .gcmInit ∧ instrOpcode i ≠ .zeroize) →
    runCommands is t = .next u →
    u.fsm = .final ∧
    ∀ (a : BitVec 8) (tag : List Byte), 1 ≤ a.toNat → a.toNat ≤ 16 → tag.length = a.toNat →
      exec (.gcmFinal a) u = .next
        { u with lastst := .invalidState
                 outbox := u.outbox ++ [{ status := .invalidState, out := [] }] } ∧
      exec (.gcmVerify a tag) u = .next
        { u with lastst := .invalidState
                 outbox := u.outbox ++ [{ status := .invalidState, out := [] }] }

/-- R150: the transition table; a cell marked IS is refused, an update against the latched direction
among them. -/
def Obligations.SequencerFollowsItsTable : Prop :=
  ∀ (i : Instr) (s : State), i.WellFormed →
    ∃ (t : State) (r : Response), exec i s = .next t ∧ t.outbox = s.outbox ++ [r] ∧
      t.fsm = nextFsm i r.status s.fsm ∧
      (refusedIn i s.fsm s.dir = true → operandLegal s.build i = true → r.status = .invalidState) ∧
      (r.status = .invalidState → t.fsm = s.fsm)

/-- 30_encoding.md section 3 and 60_exceptions.md section 1: the status codes, the response header's
fields, and the output length of every ending. -/
def Obligations.ResponsesHaveTheTabledLength : Prop :=
  [Status.ok, .invalidKeyLength, .invalidState, .messageTooLong, .tagMismatch, .illegalCommand].map
    statusCode = [0, 1, 2, 3, 4, 5] ∧
  (∀ r : Response, r.out.length < 2 ^ 48 →
    (responseHeader r).extractLsb' 56 8 = statusCode r.status ∧
    (responseHeader r).extractLsb' 48 8 = 0 ∧
    ((responseHeader r).extractLsb' 0 48).toNat = r.out.length ∧
    responseBytes r = beBytes 8 (responseHeader r).toNat ++ r.out) ∧
  (∀ (i : Instr) (s : State), i.WellFormed →
    ∃ (t : State) (r : Response), exec i s = .next t ∧ t.outbox = s.outbox ++ [r] ∧
      r.out.length = if r.status = .ok then okOutlen i else 0)

/-- 00_scope.md section 4: two engines that differ in their build only answer every command alike
and stay alike, with the two exceptions named there: the bytes of K and TIER of the status word, and
the legal range of GFOLDN's operand. -/
def Obligations.BuildParametersDoNotShow : Prop :=
  ∀ s t : State, Inv s → Inv t →
    t = { s with build := t.build, hpow := t.hpow, lanes := t.lanes } →
    (∀ i : Instr, i.WellFormed → i ≠ .rdst → operandLegal s.build i = operandLegal t.build i →
      ∃ s' t', exec i s = .next s' ∧ exec i t = .next t' ∧
        t' = { s' with build := t'.build, hpow := t'.hpow, lanes := t'.lanes } ∧
        s'.build = s.build ∧ t'.build = t.build) ∧
    (∀ i : Instr, operandLegal s.build i ≠ operandLegal t.build i → instrOpcode i = .gfoldn) ∧
    (∃ (s' t' : State) (o o' : List Byte),
      exec .rdst s = .next s' ∧ exec .rdst t = .next t' ∧
      s'.outbox = s.outbox ++ [{ status := .ok, out := o }] ∧
      t'.outbox = t.outbox ++ [{ status := .ok, out := o' }] ∧
      o.length = 24 ∧ o'.length = 24 ∧ (∀ j, j ≠ 5 → j ≠ 6 → o[j]? = o'[j]?) ∧
      t' = { s' with build := t'.build, hpow := t'.hpow, lanes := t'.lanes, outbox := t'.outbox } ∧
      s'.build = s.build ∧ t'.build = t.build)

/-- 10_state.md section 6: every step keeps the invariants, from every state that has them. -/
def Obligations.StepKeepsTheInvariants : Prop :=
  ∀ s t : State, Inv s → step s = .next t → Inv t

/-- The state after reset has the invariants, for every legal build; that `State.reset` is the state
of the default build is the model's choice (log 1). -/
def Obligations.ResetHasTheInvariants : Prop :=
  (∀ b : Build, b.legal → Inv (State.resetOf b)) ∧ Inv State.reset

/-- 10_state.md section 6: every state an engine can be in has the invariants. -/
def Obligations.ReachableStatesHaveTheInvariants : Prop :=
  ∀ s : State, Reachable s → Inv s

/-- Commands offered together are taken in order, one step each, and each is answered once
(20_memory.md section 4, 70_reset_and_hazards.md section 4). That several packets stand offered at
once, and that no step waits for a response to be drained, are the model's choices (logs 2 and 3):
R60 allows one outstanding command. -/
def Obligations.OfferedCommandsAreAnsweredInOrder : Prop :=
  ∀ (is : List Instr) (s : State), (∀ i ∈ is, i.WellFormed) →
    s.inbox = is.map (fun i => .packet (encode i)) →
    ∃ t, Sys2Proof.core.run is.length s = .next t ∧
      runCommands is { s with inbox := [] } = .next t ∧
      t.outbox.length = s.outbox.length + is.length

/-- R46: a byte string survives the beats; every beat but the last carries sixteen bytes, the last 1
to 16, and bytes beyond the count are zero. -/
def Obligations.BeatsCarryTheByteString : Prop :=
  ∀ bs : List Byte,
    bytesOfBeats (beatsOf bs) = bs ∧
    (∀ b ∈ beatsOf bs, 1 ≤ b.count ∧ b.count ≤ 16 ∧
      ∀ i, b.count ≤ i → i < 16 → byteAt b.data i = 0) ∧
    (∀ (i : Nat) (b : Beat), (beatsOf bs)[i]? = some b → i + 1 < (beatsOf bs).length → b.count = 16)
end

