-- ==== Sys2Proof/Laws/Bytes.lean ====
section
/-! SUPPORT. Lemmas of Machine/Bytes.lean: lengths, and the readings of byte strings as integers and
back (spec/00_scope.md R10). -/

namespace Sys2Proof.Machine

@[simp] theorem beBytes_length (n v : Nat) : (beBytes n v).length = n := by
  induction n with
  | zero => rfl
  | succ n ih => simp [beBytes, ih]

@[simp] theorem blockBytes_length (b : Block) : (blockBytes b).length = 16 := beBytes_length 16 _

@[simp] theorem wordBytes_length (w : Word32) : (wordBytes w).length = 4 := beBytes_length 4 _

@[simp] theorem beNat_nil : beNat [] = 0 := rfl

theorem beNat_foldl (s : List Byte) (n : Nat) :
    s.foldl (fun n b => 256 * n + b.toNat) n = 256 ^ s.length * n + beNat s := by
  induction s generalizing n with
  | nil => simp
  | cons b s ih =>
    simp only [beNat, List.foldl_cons, List.length_cons, pow_succ]
    rw [ih, ih (256 * 0 + b.toNat)]
    ring

theorem beNat_cons (b : Byte) (s : List Byte) :
    beNat (b :: s) = 256 ^ s.length * b.toNat + beNat s := by
  have h := beNat_foldl s (256 * 0 + b.toNat)
  simpa [beNat] using h

theorem beNat_append (s t : List Byte) :
    beNat (s ++ t) = 256 ^ t.length * beNat s + beNat t := by
  unfold beNat
  rw [List.foldl_append, beNat_foldl]
  rfl

theorem beNat_lt (s : List Byte) : beNat s < 256 ^ s.length := by
  induction s with
  | nil => simp
  | cons b s ih =>
    rw [beNat_cons, List.length_cons, pow_succ]
    have hb : b.toNat ≤ 255 := by have := b.isLt; omega
    have h1 : 256 ^ s.length * b.toNat ≤ 256 ^ s.length * 255 := Nat.mul_le_mul_left _ hb
    omega

/-- `be` undoes `BE`: the integer survives if it fits in the bytes (R10). -/
theorem beNat_beBytes (n v : Nat) : beNat (beBytes n v) = v % 256 ^ n := by
  induction n with
  | zero => simp [beBytes, Nat.mod_one]
  | succ n ih =>
    rw [beBytes, beNat_cons, ih, beBytes_length, BitVec.toNat_ofNat,
      show (256 : Nat) ^ (n + 1) = 256 ^ n * 256 from pow_succ 256 n, Nat.mod_mul]
    exact Nat.add_comm _ _

/-- `BE` undoes `be` on a string of the same length (R10). -/
theorem beBytes_beNat (s : List Byte) : beBytes s.length (beNat s) = s := by
  have aux : ∀ (s : List Byte) (m : Nat), beBytes s.length (256 ^ s.length * m + beNat s) = s := by
    intro s
    induction s with
    | nil => intro m; rfl
    | cons b s ih =>
      intro m
      have hlt := beNat_lt s
      have hdiv : (256 ^ (s.length + 1) * m + beNat (b :: s)) / 256 ^ s.length
          = 256 * m + b.toNat := by
        rw [beNat_cons, pow_succ]
        have : 256 ^ s.length * 256 * m + (256 ^ s.length * b.toNat + beNat s)
            = 256 ^ s.length * (256 * m + b.toNat) + beNat s := by ring
        rw [this, Nat.mul_add_div (by positivity), Nat.div_eq_of_lt hlt, Nat.add_zero]
      have htail : 256 ^ (s.length + 1) * m + beNat (b :: s)
          = 256 ^ s.length * (256 * m + b.toNat) + beNat s := by
        rw [beNat_cons, pow_succ]; ring
      simp only [List.length_cons, beBytes, hdiv]
      rw [htail, ih]
      congr 1
      apply BitVec.eq_of_toNat_eq
      have := b.isLt
      simp [BitVec.toNat_ofNat]
      omega
  simpa using aux s 0

/-- A block is the block its bytes spell (R10, R43). -/
@[simp] theorem blockOfBytes_blockBytes (b : Block) : blockOfBytes (blockBytes b) = b := by
  apply BitVec.eq_of_toNat_eq
  have := b.isLt
  simp only [blockOfBytes, blockBytes, beNat_beBytes, BitVec.toNat_ofNat]
  omega

/-- The bytes of the block a 16-byte string spells are that string (R10, R43). -/
theorem blockBytes_blockOfBytes (s : List Byte) (h : s.length = 16) :
    blockBytes (blockOfBytes s) = s := by
  have hlt := beNat_lt s
  have h16 := beBytes_beNat s
  rw [h] at hlt h16
  unfold blockBytes blockOfBytes
  rw [BitVec.toNat_ofNat, Nat.mod_eq_of_lt (by simpa using hlt)]
  exact h16

/-- Entry `i` of `BE_8n(v)`. -/
theorem beBytes_getElem? (n v i : Nat) (h : i < n) :
    (beBytes n v)[i]? = some (BitVec.ofNat 8 (v / 256 ^ (n - 1 - i))) := by
  induction n generalizing i with
  | zero => omega
  | succ n ih =>
    cases i with
    | zero => simp [beBytes]
    | succ i =>
      rw [beBytes, List.getElem?_cons_succ, ih i (by omega),
        show n + 1 - 1 - (i + 1) = n - 1 - i from by omega]

/-- `byteAt b i` is entry `i` of the bytes of `b`. -/
theorem blockBytes_getElem? (b : Block) (i : Nat) (h : i < 16) :
    (blockBytes b)[i]? = some (byteAt b i) := beBytes_getElem? 16 b.toNat i h

@[simp] theorem chunkBlocks_length (n : Nat) (s : List Byte) : (chunkBlocks n s).length = n := by
  induction n generalizing s with
  | zero => rfl
  | succ n ih => simp [chunkBlocks, ih]

@[simp] theorem blocksOfBytes_length (s : List Byte) :
    (blocksOfBytes s).length = blockCount s.length := chunkBlocks_length _ _

@[simp] theorem bytesOfBlocks_nil : bytesOfBlocks [] = [] := rfl

@[simp] theorem bytesOfBlocks_cons (b : Block) (bs : List Block) :
    bytesOfBlocks (b :: bs) = blockBytes b ++ bytesOfBlocks bs := rfl

@[simp] theorem bytesOfBlocks_length (bs : List Block) :
    (bytesOfBlocks bs).length = 16 * bs.length := by
  induction bs with
  | nil => rfl
  | cons b bs ih => simp [ih]; omega

/-- Sixteen bytes need no padding (R133). -/
theorem padBlock_of_length (s : List Byte) (h : s.length = 16) : padBlock s = blockOfBytes s := by
  simp [padBlock, h]

/-- Whole blocks survive being written as bytes and cut again (R64). -/
theorem chunkBlocks_bytesOfBlocks (bs : List Block) :
    chunkBlocks bs.length (bytesOfBlocks bs) = bs := by
  induction bs with
  | nil => rfl
  | cons b bs ih =>
    have ht : (blockBytes b ++ bytesOfBlocks bs).take 16 = blockBytes b := by
      rw [List.take_append_of_le_length (by simp)]; simp
    have hd : (blockBytes b ++ bytesOfBlocks bs).drop 16 = bytesOfBlocks bs := by
      rw [List.drop_append_of_le_length (by simp)]; simp
    simp only [List.length_cons, chunkBlocks, bytesOfBlocks_cons, ht, hd, ih]
    rw [padBlock_of_length _ (by simp), blockOfBytes_blockBytes]

end Sys2Proof.Machine
end

