-- ==== Sys2Proof/Laws/Datapath.lean ====
section
/-! SUPPORT. What the parallel datapath's shared operations do, said once. -/

namespace Sys2Proof.Machine

/-- Lock step is lane by lane: a register leaves the rounds as each of its blocks would alone. -/
theorem lockStep_eq_map (first last : Block → Block) (round : Block → Nat → Block) (nr : Nat)
    (reg : List Block) :
    lockStep first last round nr reg =
      reg.map fun b => last ((List.range' 1 (nr - 1)).foldl round (first b)) := by
  have lanes : ∀ (rs : List Nat) (v : List Block),
      rs.foldl (fun v r => v.map fun s => round s r) v = v.map fun b => rs.foldl round b := by
    intro rs
    induction rs with
    | nil => intro v; simp
    | cons r rs ih => intro v; simp [ih]
  simp [lockStep, lanes]

theorem encryptRegister_eq_map (erk : RoundKeys) (nr : Nat) (reg : List Block) :
    encryptRegister erk nr reg = reg.map (encryptBlock erk nr) :=
  lockStep_eq_map _ _ _ _ _

theorem decryptRegister_eq_map (drk : RoundKeys) (nr : Nat) (reg : List Block) :
    decryptRegister drk nr reg = reg.map (decryptBlock drk nr) :=
  lockStep_eq_map _ _ _ _ _

end Sys2Proof.Machine
end

