-- ==== Sys2Proof/Laws/State.lean ====
section
/-! SUPPORT. One lemma for each field and each update of Machine/Ops.lean, so that no later proof
unfolds a record update. A field an update does not name is the one it had. -/

namespace Sys2Proof.Machine

/-- `raise` is the response with no output (R11, R192). -/
@[simp] theorem State.raise_eq_respond (st : Status) (s : State) :
    s.raise st = s.respond st [] := rfl

/-! `State.resetInput` -/

section
variable (s : State) (rest : List HostEvent)

@[simp] theorem State.resetInput_kv : (s.resetInput rest).kv = false := rfl
@[simp] theorem State.resetInput_klen : (s.resetInput rest).klen = 0 := rfl
@[simp] theorem State.resetInput_nr : (s.resetInput rest).nr = 0 := rfl
@[simp] theorem State.resetInput_erk : (s.resetInput rest).erk = zeroKeys := rfl
@[simp] theorem State.resetInput_drk : (s.resetInput rest).drk = zeroKeys := rfl
@[simp] theorem State.resetInput_cv : (s.resetInput rest).cv = false := rfl
@[simp] theorem State.resetInput_ctr : (s.resetInput rest).ctr = 0 := rfl
@[simp] theorem State.resetInput_gv : (s.resetInput rest).gv = false := rfl
@[simp] theorem State.resetInput_h : (s.resetInput rest).h = 0 := rfl
@[simp] theorem State.resetInput_hpow : (s.resetInput rest).hpow = List.replicate s.build.k 0 := rfl
@[simp] theorem State.resetInput_acc : (s.resetInput rest).acc = 0 := rfl
@[simp] theorem State.resetInput_plo : (s.resetInput rest).plo = 0 := rfl
@[simp] theorem State.resetInput_phi : (s.resetInput rest).phi = 0 := rfl
@[simp] theorem State.resetInput_pmid : (s.resetInput rest).pmid = 0 := rfl
@[simp] theorem State.resetInput_lanes : (s.resetInput rest).lanes =
    List.replicate s.build.lanes 0 := rfl
@[simp] theorem State.resetInput_tmask : (s.resetInput rest).tmask = 0 := rfl
@[simp] theorem State.resetInput_aadlen : (s.resetInput rest).aadlen = 0 := rfl
@[simp] theorem State.resetInput_ctlen : (s.resetInput rest).ctlen = 0 := rfl
@[simp] theorem State.resetInput_ks : (s.resetInput rest).ks = 0 := rfl
@[simp] theorem State.resetInput_res : (s.resetInput rest).res = 0 := rfl
@[simp] theorem State.resetInput_resn : (s.resetInput rest).resn = 0 := rfl
@[simp] theorem State.resetInput_fsm : (s.resetInput rest).fsm = .uninit := rfl
@[simp] theorem State.resetInput_dir : (s.resetInput rest).dir = none := rfl
@[simp] theorem State.resetInput_lastst : (s.resetInput rest).lastst = .ok := rfl
@[simp] theorem State.resetInput_build : (s.resetInput rest).build = s.build := rfl
@[simp] theorem State.resetInput_inbox : (s.resetInput rest).inbox = rest := rfl
@[simp] theorem State.resetInput_outbox : (s.resetInput rest).outbox = s.outbox := rfl

end

/-! `State.send` -/

section
variable (st : Status) (out : List Byte) (s : State)

@[simp] theorem State.send_kv : (s.send st out).kv = s.kv := rfl
@[simp] theorem State.send_klen : (s.send st out).klen = s.klen := rfl
@[simp] theorem State.send_nr : (s.send st out).nr = s.nr := rfl
@[simp] theorem State.send_erk : (s.send st out).erk = s.erk := rfl
@[simp] theorem State.send_drk : (s.send st out).drk = s.drk := rfl
@[simp] theorem State.send_cv : (s.send st out).cv = s.cv := rfl
@[simp] theorem State.send_ctr : (s.send st out).ctr = s.ctr := rfl
@[simp] theorem State.send_gv : (s.send st out).gv = s.gv := rfl
@[simp] theorem State.send_h : (s.send st out).h = s.h := rfl
@[simp] theorem State.send_hpow : (s.send st out).hpow = s.hpow := rfl
@[simp] theorem State.send_acc : (s.send st out).acc = s.acc := rfl
@[simp] theorem State.send_plo : (s.send st out).plo = s.plo := rfl
@[simp] theorem State.send_phi : (s.send st out).phi = s.phi := rfl
@[simp] theorem State.send_pmid : (s.send st out).pmid = s.pmid := rfl
@[simp] theorem State.send_lanes : (s.send st out).lanes = s.lanes := rfl
@[simp] theorem State.send_tmask : (s.send st out).tmask = s.tmask := rfl
@[simp] theorem State.send_aadlen : (s.send st out).aadlen = s.aadlen := rfl
@[simp] theorem State.send_ctlen : (s.send st out).ctlen = s.ctlen := rfl
@[simp] theorem State.send_ks : (s.send st out).ks = s.ks := rfl
@[simp] theorem State.send_res : (s.send st out).res = s.res := rfl
@[simp] theorem State.send_resn : (s.send st out).resn = s.resn := rfl
@[simp] theorem State.send_fsm : (s.send st out).fsm = s.fsm := rfl
@[simp] theorem State.send_dir : (s.send st out).dir = s.dir := rfl
@[simp] theorem State.send_lastst : (s.send st out).lastst = s.lastst := rfl
@[simp] theorem State.send_build : (s.send st out).build = s.build := rfl
@[simp] theorem State.send_inbox : (s.send st out).inbox = s.inbox := rfl
@[simp] theorem State.send_outbox : (s.send st out).outbox =
    s.outbox ++ [{ status := st, out := out }] := rfl

end

/-! `State.respond` -/

section
variable (st : Status) (out : List Byte) (s : State)

@[simp] theorem State.respond_kv : (s.respond st out).kv = s.kv := rfl
@[simp] theorem State.respond_klen : (s.respond st out).klen = s.klen := rfl
@[simp] theorem State.respond_nr : (s.respond st out).nr = s.nr := rfl
@[simp] theorem State.respond_erk : (s.respond st out).erk = s.erk := rfl
@[simp] theorem State.respond_drk : (s.respond st out).drk = s.drk := rfl
@[simp] theorem State.respond_cv : (s.respond st out).cv = s.cv := rfl
@[simp] theorem State.respond_ctr : (s.respond st out).ctr = s.ctr := rfl
@[simp] theorem State.respond_gv : (s.respond st out).gv = s.gv := rfl
@[simp] theorem State.respond_h : (s.respond st out).h = s.h := rfl
@[simp] theorem State.respond_hpow : (s.respond st out).hpow = s.hpow := rfl
@[simp] theorem State.respond_acc : (s.respond st out).acc = s.acc := rfl
@[simp] theorem State.respond_plo : (s.respond st out).plo = s.plo := rfl
@[simp] theorem State.respond_phi : (s.respond st out).phi = s.phi := rfl
@[simp] theorem State.respond_pmid : (s.respond st out).pmid = s.pmid := rfl
@[simp] theorem State.respond_lanes : (s.respond st out).lanes = s.lanes := rfl
@[simp] theorem State.respond_tmask : (s.respond st out).tmask = s.tmask := rfl
@[simp] theorem State.respond_aadlen : (s.respond st out).aadlen = s.aadlen := rfl
@[simp] theorem State.respond_ctlen : (s.respond st out).ctlen = s.ctlen := rfl
@[simp] theorem State.respond_ks : (s.respond st out).ks = s.ks := rfl
@[simp] theorem State.respond_res : (s.respond st out).res = s.res := rfl
@[simp] theorem State.respond_resn : (s.respond st out).resn = s.resn := rfl
@[simp] theorem State.respond_fsm : (s.respond st out).fsm = s.fsm := rfl
@[simp] theorem State.respond_dir : (s.respond st out).dir = s.dir := rfl
@[simp] theorem State.respond_lastst : (s.respond st out).lastst = st := rfl
@[simp] theorem State.respond_build : (s.respond st out).build = s.build := rfl
@[simp] theorem State.respond_inbox : (s.respond st out).inbox = s.inbox := rfl
@[simp] theorem State.respond_outbox : (s.respond st out).outbox =
    s.outbox ++ [{ status := st, out := out }] := rfl

end

/-! `State.wiped` -/

section
variable (s : State)

@[simp] theorem State.wiped_kv : (s.wiped).kv = false := rfl
@[simp] theorem State.wiped_klen : (s.wiped).klen = 0 := rfl
@[simp] theorem State.wiped_nr : (s.wiped).nr = 0 := rfl
@[simp] theorem State.wiped_erk : (s.wiped).erk = zeroKeys := rfl
@[simp] theorem State.wiped_drk : (s.wiped).drk = zeroKeys := rfl
@[simp] theorem State.wiped_cv : (s.wiped).cv = false := rfl
@[simp] theorem State.wiped_ctr : (s.wiped).ctr = 0 := rfl
@[simp] theorem State.wiped_gv : (s.wiped).gv = false := rfl
@[simp] theorem State.wiped_h : (s.wiped).h = 0 := rfl
@[simp] theorem State.wiped_hpow : (s.wiped).hpow = List.replicate s.build.k 0 := rfl
@[simp] theorem State.wiped_acc : (s.wiped).acc = 0 := rfl
@[simp] theorem State.wiped_plo : (s.wiped).plo = 0 := rfl
@[simp] theorem State.wiped_phi : (s.wiped).phi = 0 := rfl
@[simp] theorem State.wiped_pmid : (s.wiped).pmid = 0 := rfl
@[simp] theorem State.wiped_lanes : (s.wiped).lanes = List.replicate s.build.lanes 0 := rfl
@[simp] theorem State.wiped_tmask : (s.wiped).tmask = 0 := rfl
@[simp] theorem State.wiped_aadlen : (s.wiped).aadlen = 0 := rfl
@[simp] theorem State.wiped_ctlen : (s.wiped).ctlen = 0 := rfl
@[simp] theorem State.wiped_ks : (s.wiped).ks = 0 := rfl
@[simp] theorem State.wiped_res : (s.wiped).res = 0 := rfl
@[simp] theorem State.wiped_resn : (s.wiped).resn = 0 := rfl
@[simp] theorem State.wiped_fsm : (s.wiped).fsm = .uninit := rfl
@[simp] theorem State.wiped_dir : (s.wiped).dir = none := rfl
@[simp] theorem State.wiped_lastst : (s.wiped).lastst = s.lastst := rfl
@[simp] theorem State.wiped_build : (s.wiped).build = s.build := rfl
@[simp] theorem State.wiped_inbox : (s.wiped).inbox = s.inbox := rfl
@[simp] theorem State.wiped_outbox : (s.wiped).outbox = s.outbox := rfl

end

/-! `State.clearKey` -/

section
variable (s : State)

@[simp] theorem State.clearKey_kv : (s.clearKey).kv = false := rfl
@[simp] theorem State.clearKey_klen : (s.clearKey).klen = 0 := rfl
@[simp] theorem State.clearKey_nr : (s.clearKey).nr = 0 := rfl
@[simp] theorem State.clearKey_erk : (s.clearKey).erk = zeroKeys := rfl
@[simp] theorem State.clearKey_drk : (s.clearKey).drk = zeroKeys := rfl
@[simp] theorem State.clearKey_cv : (s.clearKey).cv = s.cv := rfl
@[simp] theorem State.clearKey_ctr : (s.clearKey).ctr = s.ctr := rfl
@[simp] theorem State.clearKey_gv : (s.clearKey).gv = false := rfl
@[simp] theorem State.clearKey_h : (s.clearKey).h = 0 := rfl
@[simp] theorem State.clearKey_hpow : (s.clearKey).hpow = List.replicate s.build.k 0 := rfl
@[simp] theorem State.clearKey_acc : (s.clearKey).acc = 0 := rfl
@[simp] theorem State.clearKey_plo : (s.clearKey).plo = s.plo := rfl
@[simp] theorem State.clearKey_phi : (s.clearKey).phi = s.phi := rfl
@[simp] theorem State.clearKey_pmid : (s.clearKey).pmid = s.pmid := rfl
@[simp] theorem State.clearKey_lanes : (s.clearKey).lanes = s.lanes := rfl
@[simp] theorem State.clearKey_tmask : (s.clearKey).tmask = s.tmask := rfl
@[simp] theorem State.clearKey_aadlen : (s.clearKey).aadlen = s.aadlen := rfl
@[simp] theorem State.clearKey_ctlen : (s.clearKey).ctlen = s.ctlen := rfl
@[simp] theorem State.clearKey_ks : (s.clearKey).ks = s.ks := rfl
@[simp] theorem State.clearKey_res : (s.clearKey).res = s.res := rfl
@[simp] theorem State.clearKey_resn : (s.clearKey).resn = s.resn := rfl
@[simp] theorem State.clearKey_fsm : (s.clearKey).fsm = s.fsm := rfl
@[simp] theorem State.clearKey_dir : (s.clearKey).dir = s.dir := rfl
@[simp] theorem State.clearKey_lastst : (s.clearKey).lastst = s.lastst := rfl
@[simp] theorem State.clearKey_build : (s.clearKey).build = s.build := rfl
@[simp] theorem State.clearKey_inbox : (s.clearKey).inbox = s.inbox := rfl
@[simp] theorem State.clearKey_outbox : (s.clearKey).outbox = s.outbox := rfl

end

/-! `State.loadKey` -/

section
variable (a : BitVec 8) (key : List Byte) (s : State)

@[simp] theorem State.loadKey_kv : (s.loadKey a key).kv = true := rfl
@[simp] theorem State.loadKey_klen : (s.loadKey a key).klen = a := rfl
@[simp] theorem State.loadKey_nr : (s.loadKey a key).nr = BitVec.ofNat 8 (keySchedule key).nr := rfl
@[simp] theorem State.loadKey_erk : (s.loadKey a key).erk = (keySchedule key).erk := rfl
@[simp] theorem State.loadKey_drk : (s.loadKey a key).drk = (keySchedule key).drk := rfl
@[simp] theorem State.loadKey_cv : (s.loadKey a key).cv = s.cv := rfl
@[simp] theorem State.loadKey_ctr : (s.loadKey a key).ctr = s.ctr := rfl
@[simp] theorem State.loadKey_gv : (s.loadKey a key).gv = s.gv := rfl
@[simp] theorem State.loadKey_h : (s.loadKey a key).h = s.h := rfl
@[simp] theorem State.loadKey_hpow : (s.loadKey a key).hpow = s.hpow := rfl
@[simp] theorem State.loadKey_acc : (s.loadKey a key).acc = s.acc := rfl
@[simp] theorem State.loadKey_plo : (s.loadKey a key).plo = s.plo := rfl
@[simp] theorem State.loadKey_phi : (s.loadKey a key).phi = s.phi := rfl
@[simp] theorem State.loadKey_pmid : (s.loadKey a key).pmid = s.pmid := rfl
@[simp] theorem State.loadKey_lanes : (s.loadKey a key).lanes = s.lanes := rfl
@[simp] theorem State.loadKey_tmask : (s.loadKey a key).tmask = s.tmask := rfl
@[simp] theorem State.loadKey_aadlen : (s.loadKey a key).aadlen = s.aadlen := rfl
@[simp] theorem State.loadKey_ctlen : (s.loadKey a key).ctlen = s.ctlen := rfl
@[simp] theorem State.loadKey_ks : (s.loadKey a key).ks = s.ks := rfl
@[simp] theorem State.loadKey_res : (s.loadKey a key).res = s.res := rfl
@[simp] theorem State.loadKey_resn : (s.loadKey a key).resn = s.resn := rfl
@[simp] theorem State.loadKey_fsm : (s.loadKey a key).fsm = s.fsm := rfl
@[simp] theorem State.loadKey_dir : (s.loadKey a key).dir = s.dir := rfl
@[simp] theorem State.loadKey_lastst : (s.loadKey a key).lastst = s.lastst := rfl
@[simp] theorem State.loadKey_build : (s.loadKey a key).build = s.build := rfl
@[simp] theorem State.loadKey_inbox : (s.loadKey a key).inbox = s.inbox := rfl
@[simp] theorem State.loadKey_outbox : (s.loadKey a key).outbox = s.outbox := rfl

end

/-! `State.seed` -/

section
variable (nonce : Nonce) (s : State)

@[simp] theorem State.seed_kv : (s.seed nonce).kv = s.kv := rfl
@[simp] theorem State.seed_klen : (s.seed nonce).klen = s.klen := rfl
@[simp] theorem State.seed_nr : (s.seed nonce).nr = s.nr := rfl
@[simp] theorem State.seed_erk : (s.seed nonce).erk = s.erk := rfl
@[simp] theorem State.seed_drk : (s.seed nonce).drk = s.drk := rfl
@[simp] theorem State.seed_cv : (s.seed nonce).cv = true := rfl
@[simp] theorem State.seed_ctr : (s.seed nonce).ctr = seedBlock nonce := rfl
@[simp] theorem State.seed_gv : (s.seed nonce).gv = s.gv := rfl
@[simp] theorem State.seed_h : (s.seed nonce).h = s.h := rfl
@[simp] theorem State.seed_hpow : (s.seed nonce).hpow = s.hpow := rfl
@[simp] theorem State.seed_acc : (s.seed nonce).acc = s.acc := rfl
@[simp] theorem State.seed_plo : (s.seed nonce).plo = s.plo := rfl
@[simp] theorem State.seed_phi : (s.seed nonce).phi = s.phi := rfl
@[simp] theorem State.seed_pmid : (s.seed nonce).pmid = s.pmid := rfl
@[simp] theorem State.seed_lanes : (s.seed nonce).lanes = s.lanes := rfl
@[simp] theorem State.seed_tmask : (s.seed nonce).tmask = s.tmask := rfl
@[simp] theorem State.seed_aadlen : (s.seed nonce).aadlen = s.aadlen := rfl
@[simp] theorem State.seed_ctlen : (s.seed nonce).ctlen = s.ctlen := rfl
@[simp] theorem State.seed_ks : (s.seed nonce).ks = s.ks := rfl
@[simp] theorem State.seed_res : (s.seed nonce).res = s.res := rfl
@[simp] theorem State.seed_resn : (s.seed nonce).resn = s.resn := rfl
@[simp] theorem State.seed_fsm : (s.seed nonce).fsm = s.fsm := rfl
@[simp] theorem State.seed_dir : (s.seed nonce).dir = s.dir := rfl
@[simp] theorem State.seed_lastst : (s.seed nonce).lastst = s.lastst := rfl
@[simp] theorem State.seed_build : (s.seed nonce).build = s.build := rfl
@[simp] theorem State.seed_inbox : (s.seed nonce).inbox = s.inbox := rfl
@[simp] theorem State.seed_outbox : (s.seed nonce).outbox = s.outbox := rfl

end

/-! `State.advance` -/

section
variable (n : Nat) (s : State)

@[simp] theorem State.advance_kv : (s.advance n).kv = s.kv := rfl
@[simp] theorem State.advance_klen : (s.advance n).klen = s.klen := rfl
@[simp] theorem State.advance_nr : (s.advance n).nr = s.nr := rfl
@[simp] theorem State.advance_erk : (s.advance n).erk = s.erk := rfl
@[simp] theorem State.advance_drk : (s.advance n).drk = s.drk := rfl
@[simp] theorem State.advance_cv : (s.advance n).cv = s.cv := rfl
@[simp] theorem State.advance_ctr : (s.advance n).ctr = inc32 s.ctr n := rfl
@[simp] theorem State.advance_gv : (s.advance n).gv = s.gv := rfl
@[simp] theorem State.advance_h : (s.advance n).h = s.h := rfl
@[simp] theorem State.advance_hpow : (s.advance n).hpow = s.hpow := rfl
@[simp] theorem State.advance_acc : (s.advance n).acc = s.acc := rfl
@[simp] theorem State.advance_plo : (s.advance n).plo = s.plo := rfl
@[simp] theorem State.advance_phi : (s.advance n).phi = s.phi := rfl
@[simp] theorem State.advance_pmid : (s.advance n).pmid = s.pmid := rfl
@[simp] theorem State.advance_lanes : (s.advance n).lanes = s.lanes := rfl
@[simp] theorem State.advance_tmask : (s.advance n).tmask = s.tmask := rfl
@[simp] theorem State.advance_aadlen : (s.advance n).aadlen = s.aadlen := rfl
@[simp] theorem State.advance_ctlen : (s.advance n).ctlen = s.ctlen := rfl
@[simp] theorem State.advance_ks : (s.advance n).ks = s.ks := rfl
@[simp] theorem State.advance_res : (s.advance n).res = s.res := rfl
@[simp] theorem State.advance_resn : (s.advance n).resn = s.resn := rfl
@[simp] theorem State.advance_fsm : (s.advance n).fsm = s.fsm := rfl
@[simp] theorem State.advance_dir : (s.advance n).dir = s.dir := rfl
@[simp] theorem State.advance_lastst : (s.advance n).lastst = s.lastst := rfl
@[simp] theorem State.advance_build : (s.advance n).build = s.build := rfl
@[simp] theorem State.advance_inbox : (s.advance n).inbox = s.inbox := rfl
@[simp] theorem State.advance_outbox : (s.advance n).outbox = s.outbox := rfl

end

/-! `State.hashInit` -/

section
variable (s : State)

@[simp] theorem State.hashInit_kv : (s.hashInit).kv = s.kv := rfl
@[simp] theorem State.hashInit_klen : (s.hashInit).klen = s.klen := rfl
@[simp] theorem State.hashInit_nr : (s.hashInit).nr = s.nr := rfl
@[simp] theorem State.hashInit_erk : (s.hashInit).erk = s.erk := rfl
@[simp] theorem State.hashInit_drk : (s.hashInit).drk = s.drk := rfl
@[simp] theorem State.hashInit_cv : (s.hashInit).cv = s.cv := rfl
@[simp] theorem State.hashInit_ctr : (s.hashInit).ctr = s.ctr := rfl
@[simp] theorem State.hashInit_gv : (s.hashInit).gv = true := rfl
@[simp] theorem State.hashInit_h : (s.hashInit).h = s.encrypt 0 := rfl
@[simp] theorem State.hashInit_hpow : (s.hashInit).hpow = powerTable s.build.k (s.encrypt 0) := rfl
@[simp] theorem State.hashInit_acc : (s.hashInit).acc = 0 := rfl
@[simp] theorem State.hashInit_plo : (s.hashInit).plo = s.plo := rfl
@[simp] theorem State.hashInit_phi : (s.hashInit).phi = s.phi := rfl
@[simp] theorem State.hashInit_pmid : (s.hashInit).pmid = s.pmid := rfl
@[simp] theorem State.hashInit_lanes : (s.hashInit).lanes = s.lanes := rfl
@[simp] theorem State.hashInit_tmask : (s.hashInit).tmask = s.tmask := rfl
@[simp] theorem State.hashInit_aadlen : (s.hashInit).aadlen = s.aadlen := rfl
@[simp] theorem State.hashInit_ctlen : (s.hashInit).ctlen = s.ctlen := rfl
@[simp] theorem State.hashInit_ks : (s.hashInit).ks = s.ks := rfl
@[simp] theorem State.hashInit_res : (s.hashInit).res = s.res := rfl
@[simp] theorem State.hashInit_resn : (s.hashInit).resn = s.resn := rfl
@[simp] theorem State.hashInit_fsm : (s.hashInit).fsm = s.fsm := rfl
@[simp] theorem State.hashInit_dir : (s.hashInit).dir = s.dir := rfl
@[simp] theorem State.hashInit_lastst : (s.hashInit).lastst = s.lastst := rfl
@[simp] theorem State.hashInit_build : (s.hashInit).build = s.build := rfl
@[simp] theorem State.hashInit_inbox : (s.hashInit).inbox = s.inbox := rfl
@[simp] theorem State.hashInit_outbox : (s.hashInit).outbox = s.outbox := rfl

end

/-! `State.foldIn` -/

section
variable (b : Block) (s : State)

@[simp] theorem State.foldIn_kv : (s.foldIn b).kv = s.kv := rfl
@[simp] theorem State.foldIn_klen : (s.foldIn b).klen = s.klen := rfl
@[simp] theorem State.foldIn_nr : (s.foldIn b).nr = s.nr := rfl
@[simp] theorem State.foldIn_erk : (s.foldIn b).erk = s.erk := rfl
@[simp] theorem State.foldIn_drk : (s.foldIn b).drk = s.drk := rfl
@[simp] theorem State.foldIn_cv : (s.foldIn b).cv = s.cv := rfl
@[simp] theorem State.foldIn_ctr : (s.foldIn b).ctr = s.ctr := rfl
@[simp] theorem State.foldIn_gv : (s.foldIn b).gv = s.gv := rfl
@[simp] theorem State.foldIn_h : (s.foldIn b).h = s.h := rfl
@[simp] theorem State.foldIn_hpow : (s.foldIn b).hpow = s.hpow := rfl
@[simp] theorem State.foldIn_acc : (s.foldIn b).acc = fold s.h s.acc b := rfl
@[simp] theorem State.foldIn_plo : (s.foldIn b).plo = s.plo := rfl
@[simp] theorem State.foldIn_phi : (s.foldIn b).phi = s.phi := rfl
@[simp] theorem State.foldIn_pmid : (s.foldIn b).pmid = s.pmid := rfl
@[simp] theorem State.foldIn_lanes : (s.foldIn b).lanes = s.lanes := rfl
@[simp] theorem State.foldIn_tmask : (s.foldIn b).tmask = s.tmask := rfl
@[simp] theorem State.foldIn_aadlen : (s.foldIn b).aadlen = s.aadlen := rfl
@[simp] theorem State.foldIn_ctlen : (s.foldIn b).ctlen = s.ctlen := rfl
@[simp] theorem State.foldIn_ks : (s.foldIn b).ks = s.ks := rfl
@[simp] theorem State.foldIn_res : (s.foldIn b).res = s.res := rfl
@[simp] theorem State.foldIn_resn : (s.foldIn b).resn = s.resn := rfl
@[simp] theorem State.foldIn_fsm : (s.foldIn b).fsm = s.fsm := rfl
@[simp] theorem State.foldIn_dir : (s.foldIn b).dir = s.dir := rfl
@[simp] theorem State.foldIn_lastst : (s.foldIn b).lastst = s.lastst := rfl
@[simp] theorem State.foldIn_build : (s.foldIn b).build = s.build := rfl
@[simp] theorem State.foldIn_inbox : (s.foldIn b).inbox = s.inbox := rfl
@[simp] theorem State.foldIn_outbox : (s.foldIn b).outbox = s.outbox := rfl

end

/-! `State.foldAggIn` -/

section
variable (bs : List Block) (s : State)

@[simp] theorem State.foldAggIn_kv : (s.foldAggIn bs).kv = s.kv := rfl
@[simp] theorem State.foldAggIn_klen : (s.foldAggIn bs).klen = s.klen := rfl
@[simp] theorem State.foldAggIn_nr : (s.foldAggIn bs).nr = s.nr := rfl
@[simp] theorem State.foldAggIn_erk : (s.foldAggIn bs).erk = s.erk := rfl
@[simp] theorem State.foldAggIn_drk : (s.foldAggIn bs).drk = s.drk := rfl
@[simp] theorem State.foldAggIn_cv : (s.foldAggIn bs).cv = s.cv := rfl
@[simp] theorem State.foldAggIn_ctr : (s.foldAggIn bs).ctr = s.ctr := rfl
@[simp] theorem State.foldAggIn_gv : (s.foldAggIn bs).gv = s.gv := rfl
@[simp] theorem State.foldAggIn_h : (s.foldAggIn bs).h = s.h := rfl
@[simp] theorem State.foldAggIn_hpow : (s.foldAggIn bs).hpow = s.hpow := rfl
@[simp] theorem State.foldAggIn_acc : (s.foldAggIn bs).acc = foldAgg s.hpow s.acc bs := rfl
@[simp] theorem State.foldAggIn_plo : (s.foldAggIn bs).plo = 0 := rfl
@[simp] theorem State.foldAggIn_phi : (s.foldAggIn bs).phi = 0 := rfl
@[simp] theorem State.foldAggIn_pmid : (s.foldAggIn bs).pmid = 0 := rfl
@[simp] theorem State.foldAggIn_lanes : (s.foldAggIn bs).lanes = s.lanes := rfl
@[simp] theorem State.foldAggIn_tmask : (s.foldAggIn bs).tmask = s.tmask := rfl
@[simp] theorem State.foldAggIn_aadlen : (s.foldAggIn bs).aadlen = s.aadlen := rfl
@[simp] theorem State.foldAggIn_ctlen : (s.foldAggIn bs).ctlen = s.ctlen := rfl
@[simp] theorem State.foldAggIn_ks : (s.foldAggIn bs).ks = s.ks := rfl
@[simp] theorem State.foldAggIn_res : (s.foldAggIn bs).res = s.res := rfl
@[simp] theorem State.foldAggIn_resn : (s.foldAggIn bs).resn = s.resn := rfl
@[simp] theorem State.foldAggIn_fsm : (s.foldAggIn bs).fsm = s.fsm := rfl
@[simp] theorem State.foldAggIn_dir : (s.foldAggIn bs).dir = s.dir := rfl
@[simp] theorem State.foldAggIn_lastst : (s.foldAggIn bs).lastst = s.lastst := rfl
@[simp] theorem State.foldAggIn_build : (s.foldAggIn bs).build = s.build := rfl
@[simp] theorem State.foldAggIn_inbox : (s.foldAggIn bs).inbox = s.inbox := rfl
@[simp] theorem State.foldAggIn_outbox : (s.foldAggIn bs).outbox = s.outbox := rfl

end

/-! `State.abortStream` -/

section
variable (s : State)

@[simp] theorem State.abortStream_kv : (s.abortStream).kv = s.kv := rfl
@[simp] theorem State.abortStream_klen : (s.abortStream).klen = s.klen := rfl
@[simp] theorem State.abortStream_nr : (s.abortStream).nr = s.nr := rfl
@[simp] theorem State.abortStream_erk : (s.abortStream).erk = s.erk := rfl
@[simp] theorem State.abortStream_drk : (s.abortStream).drk = s.drk := rfl
@[simp] theorem State.abortStream_cv : (s.abortStream).cv = s.cv := rfl
@[simp] theorem State.abortStream_ctr : (s.abortStream).ctr = s.ctr := rfl
@[simp] theorem State.abortStream_gv : (s.abortStream).gv = s.gv := rfl
@[simp] theorem State.abortStream_h : (s.abortStream).h = s.h := rfl
@[simp] theorem State.abortStream_hpow : (s.abortStream).hpow = s.hpow := rfl
@[simp] theorem State.abortStream_acc : (s.abortStream).acc = 0 := rfl
@[simp] theorem State.abortStream_plo : (s.abortStream).plo = s.plo := rfl
@[simp] theorem State.abortStream_phi : (s.abortStream).phi = s.phi := rfl
@[simp] theorem State.abortStream_pmid : (s.abortStream).pmid = s.pmid := rfl
@[simp] theorem State.abortStream_lanes : (s.abortStream).lanes = s.lanes := rfl
@[simp] theorem State.abortStream_tmask : (s.abortStream).tmask = s.tmask := rfl
@[simp] theorem State.abortStream_aadlen : (s.abortStream).aadlen = s.aadlen := rfl
@[simp] theorem State.abortStream_ctlen : (s.abortStream).ctlen = s.ctlen := rfl
@[simp] theorem State.abortStream_ks : (s.abortStream).ks = 0 := rfl
@[simp] theorem State.abortStream_res : (s.abortStream).res = 0 := rfl
@[simp] theorem State.abortStream_resn : (s.abortStream).resn = 0 := rfl
@[simp] theorem State.abortStream_fsm : (s.abortStream).fsm = .final := rfl
@[simp] theorem State.abortStream_dir : (s.abortStream).dir = s.dir := rfl
@[simp] theorem State.abortStream_lastst : (s.abortStream).lastst = s.lastst := rfl
@[simp] theorem State.abortStream_build : (s.abortStream).build = s.build := rfl
@[simp] theorem State.abortStream_inbox : (s.abortStream).inbox = s.inbox := rfl
@[simp] theorem State.abortStream_outbox : (s.abortStream).outbox = s.outbox := rfl

end

/-! `State.closed` -/

section
variable (s : State)

@[simp] theorem State.closed_kv : (s.closed).kv = s.kv := rfl
@[simp] theorem State.closed_klen : (s.closed).klen = s.klen := rfl
@[simp] theorem State.closed_nr : (s.closed).nr = s.nr := rfl
@[simp] theorem State.closed_erk : (s.closed).erk = s.erk := rfl
@[simp] theorem State.closed_drk : (s.closed).drk = s.drk := rfl
@[simp] theorem State.closed_cv : (s.closed).cv = s.cv := rfl
@[simp] theorem State.closed_ctr : (s.closed).ctr = s.ctr := rfl
@[simp] theorem State.closed_gv : (s.closed).gv = s.gv := rfl
@[simp] theorem State.closed_h : (s.closed).h = s.h := rfl
@[simp] theorem State.closed_hpow : (s.closed).hpow = s.hpow := rfl
@[simp] theorem State.closed_acc : (s.closed).acc = s.closedAcc := rfl
@[simp] theorem State.closed_plo : (s.closed).plo = s.plo := rfl
@[simp] theorem State.closed_phi : (s.closed).phi = s.phi := rfl
@[simp] theorem State.closed_pmid : (s.closed).pmid = s.pmid := rfl
@[simp] theorem State.closed_lanes : (s.closed).lanes = s.lanes := rfl
@[simp] theorem State.closed_tmask : (s.closed).tmask = s.tmask := rfl
@[simp] theorem State.closed_aadlen : (s.closed).aadlen = s.aadlen := rfl
@[simp] theorem State.closed_ctlen : (s.closed).ctlen = s.ctlen := rfl
@[simp] theorem State.closed_ks : (s.closed).ks = 0 := rfl
@[simp] theorem State.closed_res : (s.closed).res = 0 := rfl
@[simp] theorem State.closed_resn : (s.closed).resn = 0 := rfl
@[simp] theorem State.closed_fsm : (s.closed).fsm = .final := rfl
@[simp] theorem State.closed_dir : (s.closed).dir = s.dir := rfl
@[simp] theorem State.closed_lastst : (s.closed).lastst = s.lastst := rfl
@[simp] theorem State.closed_build : (s.closed).build = s.build := rfl
@[simp] theorem State.closed_inbox : (s.closed).inbox = s.inbox := rfl
@[simp] theorem State.closed_outbox : (s.closed).outbox = s.outbox := rfl

end

/-! `State.finishUpdate` -/

section
variable (d : Direction) (n : Nat) (s : State)

@[simp] theorem State.finishUpdate_kv : (s.finishUpdate d n).kv = s.kv := rfl
@[simp] theorem State.finishUpdate_klen : (s.finishUpdate d n).klen = s.klen := rfl
@[simp] theorem State.finishUpdate_nr : (s.finishUpdate d n).nr = s.nr := rfl
@[simp] theorem State.finishUpdate_erk : (s.finishUpdate d n).erk = s.erk := rfl
@[simp] theorem State.finishUpdate_drk : (s.finishUpdate d n).drk = s.drk := rfl
@[simp] theorem State.finishUpdate_cv : (s.finishUpdate d n).cv = s.cv := rfl
@[simp] theorem State.finishUpdate_ctr : (s.finishUpdate d n).ctr = s.ctr := rfl
@[simp] theorem State.finishUpdate_gv : (s.finishUpdate d n).gv = s.gv := rfl
@[simp] theorem State.finishUpdate_h : (s.finishUpdate d n).h = s.h := rfl
@[simp] theorem State.finishUpdate_hpow : (s.finishUpdate d n).hpow = s.hpow := rfl
@[simp] theorem State.finishUpdate_acc : (s.finishUpdate d n).acc = s.acc := rfl
@[simp] theorem State.finishUpdate_plo : (s.finishUpdate d n).plo = s.plo := rfl
@[simp] theorem State.finishUpdate_phi : (s.finishUpdate d n).phi = s.phi := rfl
@[simp] theorem State.finishUpdate_pmid : (s.finishUpdate d n).pmid = s.pmid := rfl
@[simp] theorem State.finishUpdate_lanes : (s.finishUpdate d n).lanes = s.lanes := rfl
@[simp] theorem State.finishUpdate_tmask : (s.finishUpdate d n).tmask = s.tmask := rfl
@[simp] theorem State.finishUpdate_aadlen : (s.finishUpdate d n).aadlen = s.aadlen := rfl
@[simp] theorem State.finishUpdate_ctlen : (s.finishUpdate d n).ctlen =
    s.ctlen + BitVec.ofNat 64 n := rfl
@[simp] theorem State.finishUpdate_ks : (s.finishUpdate d n).ks = s.ks := rfl
@[simp] theorem State.finishUpdate_res : (s.finishUpdate d n).res = s.res := rfl
@[simp] theorem State.finishUpdate_resn : (s.finishUpdate d n).resn = s.resn := rfl
@[simp] theorem State.finishUpdate_fsm : (s.finishUpdate d n).fsm = .stream := rfl
@[simp] theorem State.finishUpdate_dir : (s.finishUpdate d n).dir = some d := rfl
@[simp] theorem State.finishUpdate_lastst : (s.finishUpdate d n).lastst = s.lastst := rfl
@[simp] theorem State.finishUpdate_build : (s.finishUpdate d n).build = s.build := rfl
@[simp] theorem State.finishUpdate_inbox : (s.finishUpdate d n).inbox = s.inbox := rfl
@[simp] theorem State.finishUpdate_outbox : (s.finishUpdate d n).outbox = s.outbox := rfl

end

/-! `State.startMessage`; the fields it writes from the key, the nonce and the associated data. -/

section
variable (a : BitVec 8) (len : BitVec 48) (key : List Byte) (nonce : Nonce) (aad : List Byte)
  (s : State)

@[simp] theorem State.startMessage_kv :
    (s.startMessage a len key nonce aad).kv = true := rfl
@[simp] theorem State.startMessage_klen :
    (s.startMessage a len key nonce aad).klen = a := rfl
@[simp] theorem State.startMessage_nr :
    (s.startMessage a len key nonce aad).nr = BitVec.ofNat 8 (keySchedule key).nr := rfl
@[simp] theorem State.startMessage_erk :
    (s.startMessage a len key nonce aad).erk = (keySchedule key).erk := rfl
@[simp] theorem State.startMessage_drk :
    (s.startMessage a len key nonce aad).drk = (keySchedule key).drk := rfl
@[simp] theorem State.startMessage_cv :
    (s.startMessage a len key nonce aad).cv = true := rfl
@[simp] theorem State.startMessage_ctr :
    (s.startMessage a len key nonce aad).ctr = seedBlock nonce := rfl
@[simp] theorem State.startMessage_gv :
    (s.startMessage a len key nonce aad).gv = true := rfl
@[simp] theorem State.startMessage_h :
    (s.startMessage a len key nonce aad).h = (s.loadKey a key).encrypt 0 := rfl
@[simp] theorem State.startMessage_hpow :
    (s.startMessage a len key nonce aad).hpow = powerTable s.build.k ((s.loadKey a key).encrypt 0) := rfl
@[simp] theorem State.startMessage_acc :
    (s.startMessage a len key nonce aad).acc = foldBytes ((s.loadKey a key).encrypt 0) 0 aad := rfl
@[simp] theorem State.startMessage_plo :
    (s.startMessage a len key nonce aad).plo = s.plo := rfl
@[simp] theorem State.startMessage_phi :
    (s.startMessage a len key nonce aad).phi = s.phi := rfl
@[simp] theorem State.startMessage_pmid :
    (s.startMessage a len key nonce aad).pmid = s.pmid := rfl
@[simp] theorem State.startMessage_lanes :
    (s.startMessage a len key nonce aad).lanes = s.lanes := rfl
@[simp] theorem State.startMessage_tmask :
    (s.startMessage a len key nonce aad).tmask = (s.loadKey a key).encrypt (seedBlock nonce) := rfl
@[simp] theorem State.startMessage_aadlen :
    (s.startMessage a len key nonce aad).aadlen = len.setWidth 64 := rfl
@[simp] theorem State.startMessage_ctlen :
    (s.startMessage a len key nonce aad).ctlen = 0 := rfl
@[simp] theorem State.startMessage_ks :
    (s.startMessage a len key nonce aad).ks = 0 := rfl
@[simp] theorem State.startMessage_res :
    (s.startMessage a len key nonce aad).res = 0 := rfl
@[simp] theorem State.startMessage_resn :
    (s.startMessage a len key nonce aad).resn = 0 := rfl
@[simp] theorem State.startMessage_fsm :
    (s.startMessage a len key nonce aad).fsm = .keynonce := rfl
@[simp] theorem State.startMessage_dir :
    (s.startMessage a len key nonce aad).dir = none := rfl
@[simp] theorem State.startMessage_lastst :
    (s.startMessage a len key nonce aad).lastst = s.lastst := rfl
@[simp] theorem State.startMessage_build :
    (s.startMessage a len key nonce aad).build = s.build := rfl
@[simp] theorem State.startMessage_inbox :
    (s.startMessage a len key nonce aad).inbox = s.inbox := rfl
@[simp] theorem State.startMessage_outbox :
    (s.startMessage a len key nonce aad).outbox = s.outbox := rfl

end

end Sys2Proof.Machine
end

