-- ==== Sys2Proof/Laws/Ops.lean ====
section
/-! SUPPORT. One lemma for each shared operation of Machine/Ops.lean that says everything it can do,
and the inversion of a step; proofs cite these instead of unfolding the operation. -/

namespace Sys2Proof.Machine

/-! ### Encryption reads the schedule only -/

theorem encrypt_congr {s t : State} (he : s.erk = t.erk) (hn : s.nr = t.nr) (b : Block) :
    s.encrypt b = t.encrypt b := by
  simp [State.encrypt, he, hn]

theorem decrypt_congr {s t : State} (hd : s.drk = t.drk) (hn : s.nr = t.nr) (b : Block) :
    s.decrypt b = t.decrypt b := by
  simp [State.decrypt, hd, hn]

/-! ### Fetching and stepping -/

theorem fetch_nil (s : State) (h : s.inbox = []) : fetch s = .idle := by
  simp [fetch, h]

theorem fetch_reset (s : State) (rest : List HostEvent) (h : s.inbox = .reset :: rest) :
    fetch s = .reset (s.resetInput rest) := by
  simp [fetch, h]

theorem fetch_packet (s : State) (bytes : List Byte) (rest : List HostEvent)
    (h : s.inbox = .packet bytes :: rest) :
    fetch s = .packet bytes { s with inbox := rest } := by
  simp [fetch, h]

/-- What a step that answers a next state has done: waited, reset, executed an instruction, or ended
a header that decode fails. -/
theorem step_cases (s t : State) (h : step s = .next t) :
    (s.inbox = [] ∧ t = s) ∨
    (∃ rest, s.inbox = .reset :: rest ∧ t = s.resetInput rest) ∨
    (∃ bytes rest i, s.inbox = .packet bytes :: rest ∧ decode bytes = .ok i ∧
      exec i { s with inbox := rest } = .next t) ∨
    (∃ bytes rest e, s.inbox = .packet bytes :: rest ∧ decode bytes = .error e ∧
      endUndecoded e { s with inbox := rest } = .next t) := by
  cases hi : s.inbox with
  | nil =>
    rw [step, fetch_nil s hi] at h
    cases h
    exact .inl ⟨rfl, rfl⟩
  | cons ev rest =>
    cases ev with
    | reset =>
      rw [step, fetch_reset s rest hi] at h
      cases h
      exact .inr (.inl ⟨rest, rfl, rfl⟩)
    | packet bytes =>
      rw [step, fetch_packet s bytes rest hi] at h
      cases hd : decode bytes with
      | ok i =>
        simp only [hd] at h
        exact .inr (.inr (.inl ⟨bytes, rest, i, rfl, hd, h⟩))
      | error e =>
        simp only [hd] at h
        exact .inr (.inr (.inr ⟨bytes, rest, e, rfl, hd, h⟩))

/-- The ending of bytes that are no instruction: IllegalCommand with the opcode's treatment of
LASTST, or a refusal where they are no packet (R53, R63, R170). -/
theorem endUndecoded_cases (e : DecodeError) (s t : State) (h : endUndecoded e s = .next t) :
    ∃ op, t = s.raiseIllegal op := by
  cases e with
  | undefinedOpcode op => simp only [endUndecoded] at h; cases h; exact ⟨op, rfl⟩
  | nonzeroField o => simp only [endUndecoded] at h; cases h; exact ⟨_, rfl⟩
  | payloadLength => simp [endUndecoded] at h
  | shortHeader => simp [endUndecoded] at h

theorem raiseIllegal_cases (op : BitVec 8) (s : State) :
    (op = opNumber .rdst ∧ s.raiseIllegal op = s.send .illegalCommand []) ∨
    (op ≠ opNumber .rdst ∧ s.raiseIllegal op = s.respond .illegalCommand []) := by
  by_cases h : op = opNumber .rdst
  · exact .inl ⟨h, by simp [State.raiseIllegal, h]⟩
  · exact .inr ⟨h, by simp [State.raiseIllegal, h]⟩

/-! ### The update of a stream -/

/-- What `beginBlock` does: a new block when none is in progress, nothing otherwise (R152). -/
theorem beginBlock_cases (s : State) :
    (s.resn = 0 ∧
      s.beginBlock = { s with ctr := inc32 s.ctr 1, ks := s.encrypt (inc32 s.ctr 1) }) ∨
    (s.resn ≠ 0 ∧ s.beginBlock = s) := by
  by_cases h : s.resn = 0
  · exact .inl ⟨h, by simp [State.beginBlock, h]⟩
  · exact .inr ⟨h, if_neg h⟩

/-- What `absorb` does: the byte is put into RES, and a full block is folded (R152). -/
theorem absorb_cases (c : Byte) (s : State) :
    (s.resn.toNat = 15 ∧
      s.absorb c =
        { s with acc := fold s.h s.acc (setByteAt s.res 15 c), res := 0, resn := 0 }) ∨
    (s.resn.toNat < 15 ∧
      s.absorb c = { s with res := setByteAt s.res s.resn.toNat c, resn := s.resn + 1 }) := by
  have hlt := s.resn.isLt
  by_cases h : s.resn.toNat + 1 = 16
  · have h15 : s.resn.toNat = 15 := by omega
    exact .inl ⟨h15, by simp [State.absorb, h15]⟩
  · exact .inr ⟨by omega, by simp [State.absorb, h]⟩

/-- The fields an update of bytes can write: CTR, KS, RES, RESN, ACC; nothing else (R152). -/
theorem updateByte_frame (d : Direction) (s : State) (x : Byte) :
    ∃ ctr ks res resn acc,
      (s.updateByte d x).1 =
        { s with ctr := ctr, ks := ks, res := res, resn := resn, acc := acc } := by
  unfold State.updateByte
  rcases beginBlock_cases s with ⟨_, hb⟩ | ⟨_, hb⟩ <;>
    rcases absorb_cases (cipherByte d x (x ^^^ byteAt s.beginBlock.ks s.beginBlock.resn.toNat))
      s.beginBlock with ⟨_, ha⟩ | ⟨_, ha⟩ <;>
    (simp only [ha]; simp only [hb]; exact ⟨_, _, _, _, _, rfl⟩)

@[simp] theorem updateBytes_nil (d : Direction) (s : State) : s.updateBytes d [] = (s, []) := rfl

@[simp] theorem updateBytes_cons (d : Direction) (s : State) (x : Byte) (xs : List Byte) :
    s.updateBytes d (x :: xs) =
      (((s.updateByte d x).1.updateBytes d xs).1,
        (s.updateByte d x).2 :: ((s.updateByte d x).1.updateBytes d xs).2) := rfl

/-- The fields an update of bytes can write (R152). -/
theorem updateBytes_frame (d : Direction) (p : List Byte) (s : State) :
    ∃ ctr ks res resn acc,
      (s.updateBytes d p).1 =
        { s with ctr := ctr, ks := ks, res := res, resn := resn, acc := acc } := by
  induction p generalizing s with
  | nil => exact ⟨_, _, _, _, _, rfl⟩
  | cons x xs ih =>
    obtain ⟨c1, k1, r1, n1, a1, h1⟩ := updateByte_frame d s x
    obtain ⟨c2, k2, r2, n2, a2, h2⟩ := ih (s.updateByte d x).1
    refine ⟨c2, k2, r2, n2, a2, ?_⟩
    rw [updateBytes_cons, h2, h1]

/-- One output byte for each payload byte (R48, R153). -/
@[simp] theorem updateBytes_length (d : Direction) (p : List Byte) (s : State) :
    (s.updateBytes d p).2.length = p.length := by
  induction p generalizing s with
  | nil => rfl
  | cons x xs ih => simp [ih]

/-- The bytes of two runs one after another are the bytes of their concatenation. -/
theorem updateBytes_append (d : Direction) (p q : List Byte) (s : State) :
    s.updateBytes d (p ++ q) =
      (((s.updateBytes d p).1.updateBytes d q).1,
        (s.updateBytes d p).2 ++ ((s.updateBytes d p).1.updateBytes d q).2) := by
  induction p generalizing s with
  | nil => simp
  | cons x xs ih => simp [ih]

/-- Everything `Update(d, payload)` can do (R152, R185, R186). -/
theorem update_cases (d : Direction) (p : List Byte) (s : State) :
    ((¬ s.streamOpen ∨ ¬ s.directionFree d) ∧ s.update d p = s.respond .invalidState []) ∨
    (s.streamOpen ∧ s.directionFree d ∧ ¬ canIssue s.ctr (blocksNeeded s.resn.toNat p.length) ∧
      s.update d p = s.abortStream.respond .messageTooLong []) ∨
    (s.streamOpen ∧ s.directionFree d ∧ canIssue s.ctr (blocksNeeded s.resn.toNat p.length) ∧
      s.update d p = ((s.updateBytes d p).1.finishUpdate d p.length).respond .ok
        (s.updateBytes d p).2) := by
  by_cases ho : s.streamOpen
  · by_cases hd : s.directionFree d
    · by_cases hc : canIssue s.ctr (blocksNeeded s.resn.toNat p.length)
      · exact .inr (.inr ⟨ho, hd, hc, by rw [State.update, if_neg (not_not_intro ho),
          if_neg (not_not_intro hd), if_neg (not_not_intro hc)]⟩)
      · exact .inr (.inl ⟨ho, hd, hc, by rw [State.update, if_neg (not_not_intro ho),
          if_neg (not_not_intro hd), if_pos hc]; rfl⟩)
    · exact .inl ⟨.inr hd, by rw [State.update, if_neg (not_not_intro ho), if_pos hd]; rfl⟩
  · exact .inl ⟨.inl ho, by rw [State.update, if_pos ho]; rfl⟩

end Sys2Proof.Machine
end

