-- ==== Sys2Proof/Laws/PerInstr.lean ====
section
/-! SUPPORT. Statements made for each instruction: the header the encoder writes selects the
instruction's row of the opcode map (spec/30_encoding.md R65), and a well-formed instruction's
payload has the length its header gives (R64). -/

namespace Sys2Proof

/-! ### The fields of a header -/

@[simp] theorem hdrOp_mkHeader (op a : BitVec 8) (len : BitVec 48) :
    hdrOp (mkHeader op a len) = op := by
  apply BitVec.eq_of_getLsbD_eq
  intro i hi
  simp only [hdrOp, mkHeader, BitVec.getLsbD_extractLsb', BitVec.getLsbD_append, hi, decide_true,
    Bool.true_and]
  rw [if_neg (by omega), if_neg (by omega)]
  congr 1
  omega

@[simp] theorem hdrA_mkHeader (op a : BitVec 8) (len : BitVec 48) :
    hdrA (mkHeader op a len) = a := by
  apply BitVec.eq_of_getLsbD_eq
  intro i hi
  simp only [hdrA, mkHeader, BitVec.getLsbD_extractLsb', BitVec.getLsbD_append, hi, decide_true,
    Bool.true_and]
  rw [if_neg (by omega), if_pos (by omega)]
  congr 1
  omega

@[simp] theorem hdrLen_mkHeader (op a : BitVec 8) (len : BitVec 48) :
    hdrLen (mkHeader op a len) = len := by
  apply BitVec.eq_of_getLsbD_eq
  intro i hi
  have h := BitVec.getLsbD_append (x := op ++ a) (y := len) (i := i)
  rw [if_pos hi] at h
  simpa [hdrLen, mkHeader, hi] using h

/-- The opcode map read backwards (R65). -/
@[simp] theorem opcodeOf_opNumber (o : Opcode) : opcodeOf (opNumber o) = some o := by
  cases o <;> decide

/-- The header of an instruction carries the number of its row (R65). -/
theorem hdrOp_headerOf (i : Instr) : hdrOp (headerOf i) = opNumber (instrOpcode i) := by
  cases i <;> exact hdrOp_mkHeader _ _ _

@[simp] theorem opcodeOf_headerOf (i : Instr) :
    opcodeOf (hdrOp (headerOf i)) = some (instrOpcode i) := by
  rw [hdrOp_headerOf, opcodeOf_opNumber]

theorem mkHeader_selects_A (op a : BitVec 8) :
    mkHeader op a 0 &&& 0xFF00FFFFFFFFFFFF#64 = mkHeader op 0 0 := by
  apply BitVec.eq_of_getLsbD_eq
  intro i hi
  simp only [mkHeader, BitVec.getLsbD_and, BitVec.getLsbD_append]
  interval_cases i <;> simp

theorem mkHeader_selects_L (op : BitVec 8) (len : BitVec 48) :
    mkHeader op 0 len &&& 0xFFFF000000000000#64 = mkHeader op 0 0 := by
  apply BitVec.eq_of_getLsbD_eq
  intro i hi
  simp only [mkHeader, BitVec.getLsbD_and, BitVec.getLsbD_append]
  interval_cases i <;> simp

theorem mkHeader_selects_AL (op a : BitVec 8) (len : BitVec 48) :
    mkHeader op a len &&& 0xFF00000000000000#64 = mkHeader op 0 0 := by
  apply BitVec.eq_of_getLsbD_eq
  intro i hi
  simp only [mkHeader, BitVec.getLsbD_and, BitVec.getLsbD_append]
  interval_cases i <;> simp

namespace Laws.SelectsRow

/-- The header the encoder writes selects the instruction's row of R65. -/
def Statement (i : Instr) : Prop := selects (headerOf i) (instrOpcode i)

theorem kexp (a : BitVec 8) (key : List Byte) : Statement (.kexp a key) := mkHeader_selects_A _ _
theorem encb (a : BitVec 8) (bs : List Block) : Statement (.encb a bs) := mkHeader_selects_A _ _
theorem decb (a : BitVec 8) (bs : List Block) : Statement (.decb a bs) := mkHeader_selects_A _ _
theorem cinit (n : Nonce) : Statement (.cinit n) := by
  show selects (mkHeader 0x10 0 0) .cinit
  decide
theorem cnext (a : BitVec 8) : Statement (.cnext a) := mkHeader_selects_A _ _
theorem ginit : Statement .ginit := by simp only [Statement]; decide
theorem gfold (b : Block) : Statement (.gfold b) := by
  show selects (mkHeader 0x21 0 0) .gfold
  decide
theorem gfoldn (a : BitVec 8) (bs : List Block) : Statement (.gfoldn a bs) :=
  mkHeader_selects_A _ _
theorem gfinal (b : Block) : Statement (.gfinal b) := by
  show selects (mkHeader 0x23 0 0) .gfinal
  decide
theorem gcmInit (a : BitVec 8) (len : BitVec 48) (key : List Byte) (n : Nonce) (aad : List Byte) :
    Statement (.gcmInit a len key n aad) := mkHeader_selects_AL _ _ _
theorem gcmEnc (len : BitVec 48) (p : List Byte) : Statement (.gcmEnc len p) :=
  mkHeader_selects_L _ _
theorem gcmDec (len : BitVec 48) (p : List Byte) : Statement (.gcmDec len p) :=
  mkHeader_selects_L _ _
theorem gcmFinal (a : BitVec 8) : Statement (.gcmFinal a) := mkHeader_selects_A _ _
theorem gcmVerify (a : BitVec 8) (tag : List Byte) : Statement (.gcmVerify a tag) :=
  mkHeader_selects_A _ _
theorem rdst : Statement .rdst := by simp only [Statement]; decide
theorem zeroize : Statement .zeroize := by simp only [Statement]; decide

end Laws.SelectsRow

namespace Laws.PayloadLength

/-- A well-formed instruction's payload has paylen(header) bytes (R64). -/
def Statement (i : Instr) : Prop :=
  i.WellFormed → (payloadOf i).length = paylen (headerOf i)

theorem paylen_eq (i : Instr) :
    paylen (headerOf i) = opPaylen (instrOpcode i) (hdrA (headerOf i)) (hdrLen (headerOf i)) := by
  simp [paylen]

theorem kexp (a : BitVec 8) (key : List Byte) : Statement (.kexp a key) := fun h => by
  rw [paylen_eq]
  simpa [headerOf, payloadOf, opPaylen, instrOpcode] using h
theorem encb (a : BitVec 8) (bs : List Block) : Statement (.encb a bs) := fun h => by
  have h : bs.length = a.toNat := h
  rw [paylen_eq]
  simp [headerOf, payloadOf, opPaylen, instrOpcode, h]
theorem decb (a : BitVec 8) (bs : List Block) : Statement (.decb a bs) := fun h => by
  have h : bs.length = a.toNat := h
  rw [paylen_eq]
  simp [headerOf, payloadOf, opPaylen, instrOpcode, h]
theorem cinit (n : Nonce) : Statement (.cinit n) := fun _ => by
  rw [paylen_eq]
  simp [payloadOf, opPaylen, instrOpcode]
theorem cnext (a : BitVec 8) : Statement (.cnext a) := fun _ => by
  rw [paylen_eq]
  simp [payloadOf, opPaylen, instrOpcode]
theorem ginit : Statement .ginit := fun _ => by
  rw [paylen_eq]
  simp [payloadOf, opPaylen, instrOpcode]
theorem gfold (b : Block) : Statement (.gfold b) := fun _ => by
  rw [paylen_eq]
  simp [payloadOf, opPaylen, instrOpcode]
theorem gfoldn (a : BitVec 8) (bs : List Block) : Statement (.gfoldn a bs) := fun h => by
  have h : bs.length = a.toNat := h
  rw [paylen_eq]
  simp [headerOf, payloadOf, opPaylen, instrOpcode, h]
theorem gfinal (b : Block) : Statement (.gfinal b) := fun _ => by
  rw [paylen_eq]
  simp [payloadOf, opPaylen, instrOpcode]
theorem gcmInit (a : BitVec 8) (len : BitVec 48) (key : List Byte) (n : Nonce) (aad : List Byte) :
    Statement (.gcmInit a len key n aad) := fun h => by
  have h : key.length = a.toNat ∧ aad.length = len.toNat := h
  rw [paylen_eq]
  simp [headerOf, payloadOf, opPaylen, instrOpcode, h]
  omega
theorem gcmEnc (len : BitVec 48) (p : List Byte) : Statement (.gcmEnc len p) := fun h => by
  rw [paylen_eq]
  simpa [headerOf, payloadOf, opPaylen, instrOpcode] using h
theorem gcmDec (len : BitVec 48) (p : List Byte) : Statement (.gcmDec len p) := fun h => by
  rw [paylen_eq]
  simpa [headerOf, payloadOf, opPaylen, instrOpcode] using h
theorem gcmFinal (a : BitVec 8) : Statement (.gcmFinal a) := fun _ => by
  rw [paylen_eq]
  simp [payloadOf, opPaylen, instrOpcode]
theorem gcmVerify (a : BitVec 8) (tag : List Byte) : Statement (.gcmVerify a tag) := fun h => by
  rw [paylen_eq]
  simpa [headerOf, payloadOf, opPaylen, instrOpcode] using h
theorem rdst : Statement .rdst := fun _ => by
  rw [paylen_eq]
  simp [payloadOf, opPaylen, instrOpcode]
theorem zeroize : Statement .zeroize := fun _ => by
  rw [paylen_eq]
  simp [payloadOf, opPaylen, instrOpcode]

end Laws.PayloadLength

end Sys2Proof
end

