-- ==== Sys2Proof/Tests/Slice0.lean ====
section
/-! SUPPORT. The tests of the model. Expected values come from spec/95_test_vectors.md (the section
is named at each test) or are written out from the encoding tables of spec/30_encoding.md. A theorem
`witness_...` gives concrete operands and states that meet the hypotheses of a statement. -/

namespace Sys2Proof.Tests

open Sys2Proof.Machine

set_option Elab.async false

/-! ### Helpers -/

/-- The state a command leaves; the reset state where there is none. -/
def after : Host.Outcome State Fault Refusal → State
  | .next t => t
  | .fault _ => State.reset
  | .refused _ => State.reset

/-- The last response sent. -/
def answer : Host.Outcome State Fault Refusal → Option Response
  | .next t => t.outbox.getLast?
  | .fault _ => none
  | .refused _ => none

/-- A small build, so that a test computes few powers. -/
def small : Build := { k := 4, tier := .reference, lanes := 1 }

/-- A state with the given sequencer state, every unit marked valid and the counter at 1. -/
def inFsm (f : Fsm) : State :=
  { State.resetOf small with kv := true, cv := true, gv := true, ctr := 1, fsm := f }

def zeroKey : List Byte := List.replicate 16 0

/-- Key C128 of section 2.1. -/
def keyC128 : List Byte := beBytes 16 0x000102030405060708090a0b0c0d0e0f

/-- The subkey H of the zero key (section 4.2). -/
def subkey0 : Block := 0x66e94bd4ef8a2c3b884cfa59ca342b2e

/-- Manual mode under a key. -/
def keyed (key : List Byte) : State :=
  { State.resetOf small with
    kv := true, klen := BitVec.ofNat 8 key.length, nr := BitVec.ofNat 8 (keySchedule key).nr,
    erk := (keySchedule key).erk, drk := (keySchedule key).drk }

/-- Manual mode with the subkey of the zero key and its first four powers (section 4.2). -/
def hashed : State :=
  { inFsm .uninit with
    h := subkey0
    hpow := [subkey0, 0xa569901bb4b18906f5059d24465c904d#128, 0xa24af38161917d7c9ae0d027c5fd91ca#128,
      0xca45ecb9a45ec8a2f256e11f220638b2#128] }

/-- A message under the zero key and nonce, just begun (TC1 of section 5.1). -/
def opened : State :=
  { keyed zeroKey with
    cv := true, ctr := 1, gv := true, h := subkey0, hpow := hashed.hpow
    tmask := 0x58e2fccefa7e3061367f1d57a4e7455a, fsm := .keynonce }

/-- The same message when 16 zero bytes have been encrypted or decrypted (TC2 of section 5.1). -/
def updated : State :=
  { opened with
    ctr := 2, acc := 0x5e2ec746917062882c85b0685353deb7, ctlen := 16, fsm := .stream
    dir := some .enc }

/-! ### Well-formedness: an ill-formed term for each check is refused -/

theorem test_wf_kexp_short_key : ¬ (Instr.kexp 16 [1, 2]).WellFormed := by decide
theorem test_wf_encb_count : ¬ (Instr.encb 2 [0]).WellFormed := by decide
theorem test_wf_decb_count : ¬ (Instr.decb 0 [0]).WellFormed := by decide
theorem test_wf_gfoldn_count : ¬ (Instr.gfoldn 1 []).WellFormed := by decide
theorem test_wf_gcmInit_key : ¬ (Instr.gcmInit 2 0 [1] 0 []).WellFormed := by decide
theorem test_wf_gcmInit_aad : ¬ (Instr.gcmInit 1 2 [1] 0 [7]).WellFormed := by decide
theorem test_wf_gcmEnc_len : ¬ (Instr.gcmEnc 0 [1]).WellFormed := by decide
theorem test_wf_gcmDec_len : ¬ (Instr.gcmDec 3 [1]).WellFormed := by decide
theorem test_wf_gcmVerify_len : ¬ (Instr.gcmVerify 4 [1, 2, 3]).WellFormed := by decide

/-! ### Decoding: each row's packet written out from R61, R64 and R65 -/

theorem test_decode_kexp :
    decode [0x01, 0x02, 0, 0, 0, 0, 0, 0, 0xAA, 0xBB] = .ok (.kexp 2 [0xAA, 0xBB]) := by decide
theorem test_decode_encb :
    decode ([0x02, 0x01, 0, 0, 0, 0, 0, 0] ++ (0x80 :: List.replicate 14 0) ++ [0x0F]) =
      .ok (.encb 1 [0x8000000000000000000000000000000F]) := by decide +kernel
theorem test_decode_decb :
    decode ([0x03, 0x01, 0, 0, 0, 0, 0, 0] ++ (0x12 :: List.replicate 15 0)) =
      .ok (.decb 1 [0x12000000000000000000000000000000]) := by decide +kernel
theorem test_decode_cinit :
    decode [0x10, 0, 0, 0, 0, 0, 0, 0,
        0xCA, 0xFE, 0xBA, 0xBE, 0xFA, 0xCE, 0xDB, 0xAD, 0xDE, 0xCA, 0xF8, 0x88] =
      .ok (.cinit 0xCAFEBABEFACEDBADDECAF888) := by decide +kernel
theorem test_decode_cnext : decode [0x11, 0x04, 0, 0, 0, 0, 0, 0] = .ok (.cnext 4) := by decide
theorem test_decode_ginit : decode [0x20, 0, 0, 0, 0, 0, 0, 0] = .ok .ginit := by decide
theorem test_decode_gfold :
    decode ([0x21, 0, 0, 0, 0, 0, 0, 0] ++ List.replicate 15 0 ++ [0x05]) = .ok (.gfold 5) := by
  decide +kernel
theorem test_decode_gfoldn :
    decode ([0x22, 0x02, 0, 0, 0, 0, 0, 0] ++ List.replicate 15 0 ++ [1] ++ List.replicate 15 0
      ++ [2]) = .ok (.gfoldn 2 [1, 2]) := by decide +kernel
theorem test_decode_gfinal :
    decode ([0x23, 0, 0, 0, 0, 0, 0, 0] ++ List.replicate 15 0 ++ [0x80]) =
      .ok (.gfinal 0x80) := by decide +kernel
/-- The key first, then the nonce, then the associated data (R64). -/
theorem test_decode_gcmInit :
    decode ([0x30, 0x02, 0, 0, 0, 0, 0, 0x01, 0xA1, 0xA2] ++ List.replicate 11 0 ++ [0x0B, 0xCC]) =
      .ok (.gcmInit 2 1 [0xA1, 0xA2] 0x0B [0xCC]) := by decide +kernel
theorem test_decode_gcmEnc :
    decode [0x31, 0, 0, 0, 0, 0, 0, 0x02, 0x10, 0x20] = .ok (.gcmEnc 2 [0x10, 0x20]) := by decide
theorem test_decode_gcmDec :
    decode [0x32, 0, 0, 0, 0, 0, 0, 0x01, 0x7F] = .ok (.gcmDec 1 [0x7F]) := by decide
theorem test_decode_gcmFinal :
    decode [0x33, 0x10, 0, 0, 0, 0, 0, 0] = .ok (.gcmFinal 16) := by decide
theorem test_decode_gcmVerify :
    decode [0x34, 0x02, 0, 0, 0, 0, 0, 0, 0x5B, 0xC9] = .ok (.gcmVerify 2 [0x5B, 0xC9]) := by decide
theorem test_decode_rdst : decode [0xF0, 0, 0, 0, 0, 0, 0, 0] = .ok .rdst := by decide
theorem test_decode_zeroize : decode [0xFF, 0, 0, 0, 0, 0, 0, 0] = .ok .zeroize := by decide
/-- Headers of section 7 that decode rejects, each by name. -/
theorem test_decode_rejects :
    decode [0x35, 0, 0, 0, 0, 0, 0, 0] = .error (.undefinedOpcode 0x35) ∧
    decode [0x20, 1, 0, 0, 0, 0, 0, 0] = .error (.nonzeroField .ginit) ∧
    decode [0xFF, 0, 0, 0, 0, 0, 0, 1] = .error (.nonzeroField .zeroize) ∧
    decode [0x11, 4, 0, 0, 0, 0, 0, 0, 9] = .error .payloadLength ∧
    decode [0x11, 4, 0] = .error .shortHeader := by decide

/-! ### Unit BC -/

/-- Section 3.1. -/
theorem test_field_and_rounds :
    xtime 0x8e = 0x07 ∧ gmul8 0x57 0x13 = 0xfe ∧ gmul8 0x57 0x83 = 0xc1 ∧
    sbox 0x53 = 0xed ∧ invSbox 0xff = 0x7d ∧ invSbox 0x16 = 0xff ∧
    shiftRows 0x000102030405060708090a0b0c0d0e0f = 0x00050a0f04090e03080d02070c01060b ∧
    mixColumns 0xdb135345f20a225c01010101c6c6c6c6 = 0x8e4da1bc9fdc589d01010101c6c6c6c6 ∧
    invMixColumns 0x8e4da1bc9fdc589d01010101c6c6c6c6 = 0xdb135345f20a225c01010101c6c6c6c6 := by
  decide +kernel
/-- Section 2.1, keys C192 and C256: the last round keys and one of DRK. -/
theorem test_key_schedule :
    roundKey (keySchedule (beBytes 24 0x000102030405060708090a0b0c0d0e0f1011121314151617)).erk 12
      = 0xa4970a331a78dc09c418c271e3a41d5d ∧
    roundKey (keySchedule (beBytes 24 0x000102030405060708090a0b0c0d0e0f1011121314151617)).drk 1
      = 0xd6bebd0dc209ea494db073803e021bb9 ∧
    roundKey (keySchedule (beBytes 32
      0x000102030405060708090a0b0c0d0e0f101112131415161718191a1b1c1d1e1f)).erk 14
      = 0x24fc79ccbf0979e9371ac23c6d68de36 := by decide +kernel
/-- Section 2.1, key C128. -/
theorem test_kexp_c128 :
    let t := after (exec (.kexp 16 keyC128) State.reset)
    t.kv = true ∧ t.klen = 16 ∧ t.nr = 10 ∧
    roundKey t.erk 10 = 0x13111d7fe3944a17f307a78b4d2b30c5 ∧
    roundKey t.drk 9 = 0x8c56dff0825dd3f9805ad3fc8659d7fd := by decide +kernel
/-- Section 3.3, row 11: an illegal length clears the old schedule. -/
theorem test_kexp_illegal_length_clears :
    let t := after (exec (.kexp 7 (List.replicate 7 0)) (inFsm .uninit))
    t.kv = false ∧ t.gv = false ∧ t.cv = true ∧ t.lastst = .invalidKeyLength := by decide
/-- Section 3.3, the two blocks of the example above width 1. -/
theorem test_encb_c128 :
    answer (exec (.encb 2 [0x00112233445566778899aabbccddeeff, 0]) (keyed keyC128)) =
      some { status := .ok, out := (
        beBytes 16 0x69c4e0d86a7b0430d8cdb78070b4c55a
          ++ beBytes 16 0xc6a13b37878f5b826f4f8162a1c8d879) } := by decide +kernel
/-- Section 3.3, row 3: decode wins over KV = 0. -/
theorem test_encb_illegal_width :
    answer (exec (.encb 3 [0, 0, 0]) State.reset) = some { status := .illegalCommand, out := [] } := by
  decide
theorem test_decb_c128 :
    answer (exec (.decb 1 [0x69c4e0d86a7b0430d8cdb78070b4c55a]) (keyed keyC128)) =
      some { status := .ok, out := beBytes 16 0x00112233445566778899aabbccddeeff } := by
  decide +kernel
theorem test_decb_without_key :
    answer (exec (.decb 1 [0]) State.reset) = some { status := .invalidState, out := [] } := by decide

/-- Section 3.3, the two blocks of DECB above width 1, and one more, in registers of two lanes. -/
theorem test_decrypt_lanes :
    decryptLanes 2 (keySchedule keyC128).drk 10
        [0x69c4e0d86a7b0430d8cdb78070b4c55a, 0, 0x69c4e0d86a7b0430d8cdb78070b4c55a] =
      [0x00112233445566778899aabbccddeeff, 0x7b1d29a16cf8ccab84f0b8a598e42fa6,
        0x00112233445566778899aabbccddeeff] := by decide +kernel

/-! ### Unit CG (section 6) -/

theorem test_cinit :
    let t := after (exec (.cinit 0xcafebabefacedbaddecaf888) State.reset)
    t.cv = true ∧ t.ctr = 0xcafebabefacedbaddecaf88800000001 := by decide
theorem test_cnext_carry :
    let o := exec (.cnext 2) { inFsm .uninit with ctr := 0xcafebabefacedbaddecaf888000000ff }
    answer o = some { status := .ok, out := (
        beBytes 16 0xcafebabefacedbaddecaf88800000100
          ++ beBytes 16 0xcafebabefacedbaddecaf88800000101) } ∧
    (after o).ctr = 0xcafebabefacedbaddecaf88800000101 := by decide +kernel
theorem test_cnext_exhausted :
    let o := exec (.cnext 3) { inFsm .uninit with ctr := 0xcafebabefacedbaddecaf888fffffffd }
    answer o = some { status := .messageTooLong, out := [] } ∧
    (after o).ctr = 0xcafebabefacedbaddecaf888fffffffd := by decide +kernel

/-! ### Unit GA -/

/-- Section 4.1, the reference and the datapath. -/
theorem test_gfmul :
    gfmul 0x1 0x40000000000000000000000000000000 = 0xe1000000000000000000000000000000 ∧
    gfmul 0x1 0x1 = 0xe6080000000000000000000000000003 ∧
    gfmul subkey0 subkey0 = 0xa569901bb4b18906f5059d24465c904d ∧
    gfmulDp 0x0388dace60b6a392f328c2b971b2fe78 subkey0 = 0x5e2ec746917062882c85b0685353deb7 := by
  decide +kernel
/-- Section 4.1, the checks on the carry-less product and the worked reduction. -/
theorem test_clmul_and_reduction :
    clmul64 3 3 = 5 ∧ clmul64 0x87 0x87 = 0x4015 ∧
    clmul64 0xffffffffffffffff 0xffffffffffffffff = 0x55555555555555555555555555555555 ∧
    combine { lo := 0x316a10be2587e2a248f03c08c1756c80, hi := 0x05c70e03573fbe71119ecdc1bdabd63f,
              mid := 0x23a3587be7e11d107fad001e7535fafd } =
      0x05c70e03573fbe7106908b0728f297fc17a9e1692c6ca2e048f03c08c1756c80 ∧
    reduce256 0x05c70e03573fbe7106908b0728f297fc17a9e1692c6ca2e048f03c08c1756c80 =
      0xed7bcaca160da13411460e8962e3747a := by decide +kernel
/-- Section 4.4, row 4, and section 4.2. -/
theorem test_ginit_zero_key :
    let t := after (exec .ginit { keyed zeroKey with acc := 5 })
    t.gv = true ∧ t.h = subkey0 ∧ t.acc = 0 ∧ t.hpow = hashed.hpow := by decide +kernel
theorem test_ginit_without_key :
    answer (exec .ginit State.reset) = some { status := .invalidState, out := [] } := by decide
/-- Section 4.4, row 5. -/
theorem test_gfold :
    (after (exec (.gfold 0x0388dace60b6a392f328c2b971b2fe78) hashed)).acc =
      0x5e2ec746917062882c85b0685353deb7 := by decide +kernel
/-- Section 4.3 (b): a non-zero accumulator enters the oldest block only. -/
theorem test_gfoldn :
    (after (exec (.gfoldn 4
        [0x000102030405060708090a0b0c0d0e0f, 0x101112131415161718191a1b1c1d1e1f,
         0x202122232425262728292a2b2c2d2e2f, 0x303132333435363738393a3b3c3d3e3f])
      { hashed with acc := 0xfedcba9876543210f0e1d2c3b4a59687 })).acc =
      0x619f6790605f4be87be1be9cbdf6e452 := by decide +kernel
/-- Section 4.3 (a): more blocks than K. -/
theorem test_gfoldn_above_k :
    answer (exec (.gfoldn 5 [0, 0, 0, 0, 0]) hashed) =
      some { status := .illegalCommand, out := [] } := by decide
/-- Section 4.4, row 6. -/
theorem test_gfinal :
    answer (exec (.gfinal 0x80) { hashed with acc := 0x5e2ec746917062882c85b0685353deb7 }) =
      some { status := .ok, out := beBytes 16 0xf38cbb1ad69223dcc3457ae5b6b0f885 } := by
  decide +kernel
/-- `42_galois.md` R141: 45 blocks are folded in widths 32, 8, 4, 1. -/
theorem test_width_descent :
    descentWidths 45 = [32, 8, 4, 1] ∧ descentWidths 7 = [4, 1, 1, 1] := by decide +kernel

/-! ### The sequencer (section 5.1, TC1 and TC2, and section 5.4) -/

theorem test_gcmInit_zero_key :
    let t := after (exec (.gcmInit 16 0 zeroKey 0 []) (inFsm .final));
    ({ t with outbox := [] } : State) = opened ∧ t.outbox = [{ status := .ok, out := [] }] := by
  decide +kernel
/-- The associated data padded for folding only (section 5.2). -/
theorem test_gcmInit_folds_aad :
    let t := after (exec (.gcmInit 16 3 keyC128 0x101112131415161718191a1b [0xa0, 0xa1, 0xa2])
      State.reset)
    t.acc = 0x9609b3961b7356839160dee56e499425 ∧ t.aadlen = 3 ∧
    t.tmask = 0x0ed7259add1011e159d00e61b1925410 := by decide +kernel
theorem test_gcmEnc_tc2 :
    let o := exec (.gcmEnc 16 (List.replicate 16 0)) opened
    answer o = some { status := .ok, out := beBytes 16 0x0388dace60b6a392f328c2b971b2fe78 } ∧
    ({ after o with ks := 0, outbox := [] } : State) = updated := by decide +kernel
/-- Program P4: the whole update is refused and the stream aborted. -/
theorem test_gcmEnc_too_long :
    let o := exec (.gcmEnc 1 [0]) { updated with ctr := 0xffffffff, acc := 7 }
    answer o = some { status := .messageTooLong, out := [] } ∧
    (after o).fsm = .final ∧ (after o).acc = 0 ∧ (after o).ctr = 0xffffffff := by decide
theorem test_gcmDec_tc2 :
    let o := exec (.gcmDec 16 (beBytes 16 0x0388dace60b6a392f328c2b971b2fe78)) opened
    answer o = some { status := .ok, out := List.replicate 16 0 } ∧
    ({ after o with ks := 0, outbox := [] } : State) = { updated with dir := some .dec } := by decide +kernel
theorem test_gcmDec_mixed_direction :
    answer (exec (.gcmDec 1 [0]) updated) = some { status := .invalidState, out := [] } := by decide
theorem test_gcmFinal_tc2 :
    let o := exec (.gcmFinal 16) updated
    answer o = some { status := .ok, out := beBytes 16 0xab6e47d42cec13bdf53a67b21257bddf } ∧
    (after o).acc = 0xf38cbb1ad69223dcc3457ae5b6b0f885 ∧ (after o).fsm = .final := by
  decide +kernel
/-- R160: a short tag is the leftmost bytes. -/
theorem test_gcmFinal_short :
    answer (exec (.gcmFinal 4) updated) =
      some { status := .ok, out := [0xab, 0x6e, 0x47, 0xd4] } := by decide +kernel
theorem test_gcmVerify_ok :
    let o := exec (.gcmVerify 16 (beBytes 16 0xab6e47d42cec13bdf53a67b21257bddf)) updated
    answer o = some { status := .ok, out := [] } ∧ (after o).fsm = .final := by decide +kernel
theorem test_gcmVerify_mismatch :
    let o := exec (.gcmVerify 16 (beBytes 16 0xab6e47d42cec13bdf53a67b21257bdde)) updated
    answer o = some { status := .tagMismatch, out := [] } ∧ (after o).lastst = .tagMismatch ∧
    (after o).fsm = .final := by decide +kernel

/-! ### System commands, ports and text (section 7, `30_encoding.md` R66, R70) -/

/-- The word of `GCM_ENC , 5` of R171. -/
theorem test_rdst_word :
    answer (exec .rdst { inFsm .stream with
      build := Build.standard, klen := 16, nr := 10, resn := 5, dir := some .enc, ctlen := 5 }) =
      some { status := .ok, out := (
        [0x00, 0x9e, 0x10, 0x0a, 0x05, 0x08, 0x00, 0x00] ++ List.replicate 15 0 ++ [5]) } := by
  decide +kernel
/-- Words of section 7 and of R171 that show the other codes. -/
theorem test_status_words :
    let s : State := { inFsm .final with build := Build.standard, klen := 16, nr := 10 }
    statusWord { s with dir := some .dec, lastst := .tagMismatch } = 0x04ee100a00080000 ∧
    statusWord { s with dir := some .enc, lastst := .messageTooLong } = 0x03de100a00080000 ∧
    statusWord { s with fsm := .keynonce } = 0x004e100a00080000 ∧
    statusWord { State.reset with lastst := .invalidState } = 0x0200000000080000 ∧
    statusWord { State.reset with cv := true, lastst := .invalidKeyLength } = 0x0104000000080000 ∧
    statusWord (State.resetOf { k := 32, tier := .wideVector, lanes := 1 }) = 0x0000000000200200 := by
  decide +kernel
theorem test_rdst_writes_nothing :
    (after (exec .rdst { inFsm .final with lastst := .tagMismatch })).lastst = .tagMismatch := by
  decide
theorem test_zeroize :
    let t := after (exec .zeroize { updated with lastst := .invalidState, lanes := [7] });
    ({ t with outbox := [] } : State) = State.resetOf small := by decide
/-- An illegal header with op = 0xF0 leaves LASTST (section 7). -/
theorem test_step_illegal_rdst :
    let o := step { inFsm .final with
      lastst := .tagMismatch, inbox := [.packet [0xF0, 1, 0, 0, 0, 0, 0, 0]] }
    answer o = some { status := .illegalCommand, out := [] } ∧ (after o).lastst = .tagMismatch ∧
    (after o).inbox = [] := by decide
/-- A run from reset: a header word stored where the step fetches is run. -/
theorem test_step_fetch_word :
    (after (step (State.reset.withFetchWord 64 0x1000000000000000))).ctr = 1 := by decide +kernel
/-- R66: the response header of an IllegalCommand (section 7). -/
theorem test_response_bytes :
    responseBytes { status := .illegalCommand, out := [] } = [5, 0, 0, 0, 0, 0, 0, 0] ∧
    responseBytes { status := .ok, out := [9, 8] } = [0, 0, 0, 0, 0, 0, 0, 2, 9, 8] := by decide
theorem test_beats :
    beatsOf (List.replicate 16 0 ++ [0xAB]) =
      [ { data := 0, count := 16 },
        { data := 0xAB000000000000000000000000000000, count := 1 } ] := by decide +kernel
theorem test_text :
    commandText (.encb 1 [0x00112233445566778899aabbccddeeff]) =
      "ENCB 1 : 00112233445566778899aabbccddeeff" ∧
    commandText (.gcmInit 1 2 [0xab] 0 [1, 2]) = "GCM_INIT 1, 2 : ab0000000000000000000000000102" ∧
    commandText (.gcmEnc 1 [0x30]) = "GCM_ENC , 1 : 30" ∧
    responseText { status := .invalidState, out := [] } = "-> InvalidState" := by decide +kernel

/-! ### Witnesses: concrete operands and states that meet the hypotheses of the statements -/

/-- A stream under the zero key with five bytes in progress, in two builds. -/
def live (b : Build) : State :=
  { opened with
    ctr := 2, ctlen := 5, ks := 0x0388dace60b6a392f328c2b971b2fe78
    res := 0x0388dace600000000000000000000000, resn := 5, fsm := .stream, dir := some .enc
    build := b, hpow := hashed.hpow.take b.k, lanes := List.replicate b.lanes 0 }

/-- Another build, for the comparison of two. -/
def small2 : Build := { k := 3, tier := .wideVector, lanes := 2 }

/-- Round keys above NR of the zero key are zero. -/
theorem live_keys_above (r : Nat) (h : 10 < r) :
    roundKey (keySchedule zeroKey).erk r = 0 ∧ roundKey (keySchedule zeroKey).drk r = 0 := by
  by_cases hr : r < 15
  · interval_cases r <;> decide +kernel
  · simp [roundKey, Vector.getElem?_eq_none (Nat.le_of_not_lt hr)]

theorem live_powers :
    powersHeld 4 (live small).hpow (live small).h ∧ powersHeld 3 (live small2).hpow (live small2).h := by
  have h : ∀ i < 5, 1 ≤ i → hpowAt (live small).hpow i = gfPow (live small).h i := by decide +kernel
  have h2 : ∀ i < 4, 1 ≤ i → hpowAt (live small2).hpow i = gfPow (live small2).h i := by
    decide +kernel
  exact ⟨⟨rfl, fun i a b => h i (by omega) a⟩, ⟨rfl, fun i a b => h2 i (by omega) a⟩⟩

theorem live_encrypts :
    encryptBlock (keySchedule zeroKey).erk 10 0 = subkey0 ∧
    encryptBlock (keySchedule zeroKey).erk 10 1 = 0x58e2fccefa7e3061367f1d57a4e7455a ∧
    encryptBlock (keySchedule zeroKey).erk 10 2 = 0x0388dace60b6a392f328c2b971b2fe78 := by
  decide +kernel

theorem live_nr (b : Build) : (live b).nr.toNat = 10 := by
  have e : (BitVec.ofNat 8 (keySchedule zeroKey).nr).toNat = 10 := by decide +kernel
  exact e

theorem live_klen (b : Build) : (live b).klen.toNat = 16 := by
  have e : (BitVec.ofNat 8 zeroKey.length).toNat = 16 := by decide +kernel
  exact e

theorem live_encrypt (b : Build) (x : Block) :
    (live b).encrypt x = encryptBlock (keySchedule zeroKey).erk 10 x := by
  unfold State.encrypt
  rw [live_nr]
  rfl

/-- The invariants of a running stream hold of both builds. -/
theorem live_inv (b : Build) (legal : b.legal) (powers : powersHeld b.k (live b).hpow (live b).h) :
    Inv (live b) where
  build_legal := legal
  key_absent := fun h => by cases h
  key_present := fun _ =>
    ⟨by rw [live_klen]; decide, by rw [live_nr, live_klen],
      fun r h => live_keys_above r (by rw [live_nr] at h; exact h),
      zeroKey, by rw [live_klen]; decide, rfl, rfl⟩
  hash_present := fun _ => ⟨rfl, by rw [live_encrypt, live_encrypts.1]; rfl, powers⟩
  hash_absent := fun h => by cases h
  message := fun _ => ⟨rfl, rfl, rfl⟩
  counter_present := fun _ => (by decide : 1 ≤ (blockCounter 2).toNat)
  counter_absent := fun h => by cases h
  mask := fun _ => by
    have e : seedBlock (nonceOf (live b).ctr) = 1 := (by decide +kernel : seedBlock (nonceOf 2) = 1)
    rw [e, live_encrypt, live_encrypts.2.1]
    rfl
  residue_zero := fun i h k => by
    have e : ∀ i < 16, 5 ≤ i → byteAt 0x0388dace600000000000000000000000 i = 0 := by decide +kernel
    exact e i k h
  residue_open := fun _ => ⟨rfl, by
    have e : (live b).ctr = 2 := rfl
    rw [e, live_encrypt, live_encrypts.2.2]
    rfl⟩
  fresh := fun h => by cases h
  running := fun _ =>
    ⟨(by decide : some Direction.enc ≠ none), (by decide : (5#64).toNat % 16 = (5#4).toNat),
      (by decide : (blockCounter 2).toNat = 1 + blockCount (5#64).toNat)⟩
  lengths := (by decide : (0#64).toNat < 2 ^ 48 ∧ (5#64).toNat ≤ 16 * (2 ^ 32 - 2))
  quiet := fun h => by cases h
  idle := ⟨rfl, rfl, rfl, rfl⟩

theorem witness_inv_live : Inv (live small) ∧ Inv (live small2) :=
  ⟨live_inv small (by decide) live_powers.1, live_inv small2 (by decide) live_powers.2⟩

/-- A state in which one packet is offered. -/
def offer (bytes : List Byte) : State := { inFsm .stream with inbox := [.packet bytes] }

def isNext : Host.Outcome State Fault Refusal → Bool
  | .next _ => true
  | .fault _ => false
  | .refused _ => false

theorem next_of_isNext (o : Host.Outcome State Fault Refusal) (h : isNext o = true) :
    o = .next (after o) := by
  cases o <;> simp_all [isNext, after]

theorem witness_DecodeOfEncodedInstruction :
    (Instr.kexp 2 [1, 2]).WellFormed ∧ (Instr.encb 1 [3]).WellFormed ∧
    (Instr.decb 0 []).WellFormed ∧ (Instr.gfoldn 2 [0, 1]).WellFormed ∧
    (Instr.gcmInit 1 2 [7] 5 [8, 9]).WellFormed ∧ (Instr.gcmEnc 1 [0]).WellFormed ∧
    (Instr.gcmDec 0 []).WellFormed ∧ (Instr.gcmVerify 1 [9]).WellFormed ∧
    (Instr.rdst).WellFormed := by decide

theorem witness_DecodedInstructionEncodesBack :
    decode [0x34, 0x01, 0, 0, 0, 0, 0, 0, 0x5B] = .ok (.gcmVerify 1 [0x5B]) := by decide

theorem witness_OpcodeRowsSelectAndDoNotOverlap :
    selects 0x11FF000000000000 .cnext ∧ ([] : List Byte).length = paylen 0x11FF000000000000 ∧
    selects 0x3001000000000000 .gcmInit ∧
    (List.replicate 13 (0 : Byte)).length = paylen 0x3001000000000000 := by decide +kernel

theorem witness_ReservedOpcodesEndIllegal :
    opcodeOf (hdrOp 0xFE00000000000000) = none ∧
    (offer (beBytes 8 (0xFE00000000000000 : Header).toNat)).inbox =
      .packet (beBytes 8 (0xFE00000000000000 : Header).toNat) :: [] ∧
    ([] : List Byte).length = paylen 0xFE00000000000000 := by decide +kernel

/-- One header at a boundary for each of the causes (a) to (g), and one that meets none. -/
theorem witness_IllegalCommandCausesAreComplete :
    illegalHeader 4 0x0400000000000000 = true ∧ illegalHeader 4 0x1100000000000001 = true ∧
    illegalHeader 4 0x2001000000000000 = true ∧ illegalHeader 4 0x0200000000000000 = true ∧
    illegalHeader 4 0x1121000000000000 = true ∧ illegalHeader 4 0x2205000000000000 = true ∧
    illegalHeader 4 0x3311000000000000 = true ∧ illegalHeader 4 0xF001000000000000 = true ∧
    illegalHeader 4 0x1120000000000000 = false ∧ illegalHeader 4 0x2204000000000000 = false ∧
    ([] : List Byte).length = paylen 0x1120000000000000 ∧
    (List.replicate 64 (0 : Byte)).length = paylen 0x2204000000000000 ∧
    (offer (beBytes 8 (0x1120000000000000 : Header).toNat ++ [])).inbox =
      .packet (beBytes 8 (0x1120000000000000 : Header).toNat ++ []) :: [] := by decide +kernel

theorem witness_WrongLengthRefusedAndWaitChangesNothing :
    ([0] : List Byte).length ≠ paylen 0x2000000000000000 ∧
    ([] : List Byte).length ≠ paylen 0x3100000000000001 ∧
    (offer [0x20, 0, 0, 0, 0, 0, 0]).inbox = .packet [0x20, 0, 0, 0, 0, 0, 0] :: [] ∧
    ([0x20, 0, 0, 0, 0, 0, 0] : List Byte).length < 8 ∧ (inFsm .stream).inbox = [] := by
  decide +kernel

theorem witness_StepRunsDecodedInstruction :
    (offer [0xFF, 0, 0, 0, 0, 0, 0, 0]).inbox = .packet [0xFF, 0, 0, 0, 0, 0, 0, 0] :: [] ∧
    decode [0xFF, 0, 0, 0, 0, 0, 0, 0] = .ok .zeroize := by decide

theorem witness_ResetInputClearsEveryElement :
    ({ updated with inbox := [.reset, .packet [1]] } : State).inbox = .reset :: [.packet [1]] := by
  decide

theorem witness_ResetStateHasTheTabledValues : State.reset = State.resetOf Build.standard := rfl

theorem witness_KexpFollowsItsRule :
    zeroKey.length = (16 : BitVec 8).toNat ∧ (inFsm .final).fsm ≠ .uninit ∧
    (inFsm .uninit).fsm = .uninit ∧ (16 : BitVec 8).toNat ∈ [16, 24, 32] ∧
    ([] : List Byte).length = (0 : BitVec 8).toNat ∧ (0 : BitVec 8).toNat ∉ [16, 24, 32] ∧
    (List.replicate 33 (0 : Byte)).length = (33 : BitVec 8).toNat ∧
    (33 : BitVec 8).toNat ∉ [16, 24, 32] := by decide

theorem witness_EncbFollowsItsRule :
    ([] : List Block).length = (0 : BitVec 8).toNat ∧ (0 : BitVec 8).toNat ∉ [1, 2, 4, 8, 16, 32] ∧
    ([5] : List Block).length = (1 : BitVec 8).toNat ∧ (1 : BitVec 8).toNat ∈ [1, 2, 4, 8, 16, 32] ∧
    (List.replicate 32 (0 : Block)).length = (32 : BitVec 8).toNat ∧
    (32 : BitVec 8).toNat ∈ [1, 2, 4, 8, 16, 32] ∧
    State.reset.kv = false ∧ (inFsm .stream).kv = true := by decide

theorem witness_DecbFollowsItsRule :
    (List.replicate 33 (0 : Block)).length = (33 : BitVec 8).toNat ∧
    (33 : BitVec 8).toNat ∉ [1, 2, 4, 8, 16, 32] ∧
    ([5, 6] : List Block).length = (2 : BitVec 8).toNat ∧
    (2 : BitVec 8).toNat ∈ [1, 2, 4, 8, 16, 32] ∧
    State.reset.kv = false ∧ (inFsm .final).kv = true := by decide

theorem witness_CinitFollowsItsRule :
    (inFsm .keynonce).fsm ≠ .uninit ∧ (inFsm .uninit).fsm = .uninit := by decide

theorem witness_CnextFollowsItsRule :
    32 < (33 : BitVec 8).toNat ∧ (32 : BitVec 8).toNat ≤ 32 ∧
    ((inFsm .stream).fsm ≠ .uninit ∨ (inFsm .stream).cv = false) ∧
    (State.reset.fsm ≠ .uninit ∨ State.reset.cv = false) ∧
    (inFsm .uninit).fsm = .uninit ∧ (inFsm .uninit).cv = true ∧
    0xFFFFFFFF < (blockCounter { inFsm .uninit with ctr := 0xFFFFFFE0 }.ctr).toNat
      + (32 : BitVec 8).toNat ∧
    (blockCounter { inFsm .uninit with ctr := 0xFFFFFFDF }.ctr).toNat + (32 : BitVec 8).toNat
      ≤ 0xFFFFFFFF := by decide

theorem witness_GinitFollowsItsRule :
    ((inFsm .final).fsm ≠ .uninit ∨ (inFsm .final).kv = false) ∧
    (State.reset.fsm ≠ .uninit ∨ State.reset.kv = false) ∧
    (inFsm .uninit).fsm = .uninit ∧ (inFsm .uninit).kv = true := by decide

theorem witness_GfoldFollowsItsRule :
    ((inFsm .stream).fsm ≠ .uninit ∨ (inFsm .stream).gv = false) ∧
    (State.reset.fsm ≠ .uninit ∨ State.reset.gv = false) ∧
    (inFsm .uninit).fsm = .uninit ∧ (inFsm .uninit).gv = true := by decide

theorem witness_GfoldnFollowsItsRule :
    ([] : List Block).length = (0 : BitVec 8).toNat ∧
    ((0 : BitVec 8).toNat < 1 ∨ hashed.build.k < (0 : BitVec 8).toNat) ∧
    (List.replicate 5 (0 : Block)).length = (5 : BitVec 8).toNat ∧
    ((5 : BitVec 8).toNat < 1 ∨ hashed.build.k < (5 : BitVec 8).toNat) ∧
    (List.replicate 4 (0 : Block)).length = (4 : BitVec 8).toNat ∧
    1 ≤ (4 : BitVec 8).toNat ∧ (4 : BitVec 8).toNat ≤ hashed.build.k ∧
    ((inFsm .stream).fsm ≠ .uninit ∨ (inFsm .stream).gv = false) ∧
    (4 : BitVec 8).toNat ≤ (inFsm .stream).build.k ∧
    hashed.fsm = .uninit ∧ hashed.gv = true := by decide

theorem witness_GfinalFollowsItsRule :
    ((inFsm .keynonce).fsm ≠ .uninit ∨ (inFsm .keynonce).gv = false) ∧
    hashed.fsm = .uninit ∧ hashed.gv = true := by decide

theorem witness_GcmInitFollowsItsRule :
    ([1] : List Byte).length = (1 : BitVec 8).toNat ∧ ([] : List Byte).length = (0 : BitVec 48).toNat ∧
    (1 : BitVec 8).toNat ∉ [16, 24, 32] ∧
    (List.replicate 32 (0 : Byte)).length = (32 : BitVec 8).toNat ∧
    ([8, 9] : List Byte).length = (2 : BitVec 48).toNat ∧ (32 : BitVec 8).toNat ∈ [16, 24, 32] := by
  decide

/-- Both cases of the loop: a new block, and the byte that fills one. -/
theorem witness_UpdateLoopTakesOneByteAtATime :
    opened.resn = 0 ∧ ({ live small with resn := 15 } : State).resn.toNat = 15 ∧
    (live small).resn.toNat ≠ 15 := by decide

theorem witness_GcmEncFollowsItsRule :
    ([0] : List Byte).length = (1 : BitVec 48).toNat ∧
    ((inFsm .uninit).fsm = .uninit ∨ (inFsm .uninit).fsm = .final ∨
      (inFsm .uninit).dir = some .dec) ∧
    (updated.fsm = .keynonce ∨ updated.fsm = .stream) ∧ updated.dir ≠ some .dec ∧
    (opened.fsm = .keynonce ∨ opened.fsm = .stream) ∧ opened.dir ≠ some .dec ∧
    0xFFFFFFFF < (blockCounter { updated with ctr := 0xFFFFFFFF }.ctr).toNat
      + blocksNeeded { updated with ctr := 0xFFFFFFFF }.resn.toNat (1 : BitVec 48).toNat ∧
    (blockCounter { updated with ctr := 0xFFFFFFFE }.ctr).toNat
      + blocksNeeded { updated with ctr := 0xFFFFFFFE }.resn.toNat (1 : BitVec 48).toNat
        ≤ 0xFFFFFFFF ∧
    (blockCounter { live small with ctr := 0xFFFFFFFF }.ctr).toNat
      + blocksNeeded { live small with ctr := 0xFFFFFFFF }.resn.toNat (11 : BitVec 48).toNat
        ≤ 0xFFFFFFFF := by decide

theorem witness_GcmDecFollowsItsRule :
    ([] : List Byte).length = (0 : BitVec 48).toNat ∧
    (updated.fsm = .uninit ∨ updated.fsm = .final ∨ updated.dir = some .enc) ∧
    ((inFsm .stream).fsm = .keynonce ∨ (inFsm .stream).fsm = .stream) ∧
    (inFsm .stream).dir ≠ some .enc ∧
    0xFFFFFFFF < (blockCounter { inFsm .stream with ctr := 0xFFFFFFFF }.ctr).toNat
      + blocksNeeded { inFsm .stream with ctr := 0xFFFFFFFF }.resn.toNat (1 : BitVec 48).toNat ∧
    (blockCounter { inFsm .stream with ctr := 0xFFFFFFFF }.ctr).toNat
      + blocksNeeded { inFsm .stream with ctr := 0xFFFFFFFF }.resn.toNat (0 : BitVec 48).toNat
        ≤ 0xFFFFFFFF := by decide

theorem witness_GcmFinalFollowsItsRule :
    ((0 : BitVec 8).toNat < 1 ∨ 16 < (0 : BitVec 8).toNat) ∧
    ((17 : BitVec 8).toNat < 1 ∨ 16 < (17 : BitVec 8).toNat) ∧
    1 ≤ (1 : BitVec 8).toNat ∧ (16 : BitVec 8).toNat ≤ 16 ∧
    ((inFsm .uninit).fsm = .uninit ∨ (inFsm .uninit).fsm = .final) ∧
    ((inFsm .final).fsm = .uninit ∨ (inFsm .final).fsm = .final) ∧
    (opened.fsm = .keynonce ∨ opened.fsm = .stream) ∧
    (updated.fsm = .keynonce ∨ updated.fsm = .stream) := by decide

theorem witness_GcmVerifyFollowsItsRule :
    ([] : List Byte).length = (0 : BitVec 8).toNat ∧
    ((0 : BitVec 8).toNat < 1 ∨ 16 < (0 : BitVec 8).toNat) ∧
    (List.replicate 17 (0 : Byte)).length = (17 : BitVec 8).toNat ∧
    ((17 : BitVec 8).toNat < 1 ∨ 16 < (17 : BitVec 8).toNat) ∧
    (List.replicate 16 (0 : Byte)).length = (16 : BitVec 8).toNat ∧
    1 ≤ (16 : BitVec 8).toNat ∧ (16 : BitVec 8).toNat ≤ 16 ∧
    ((inFsm .final).fsm = .uninit ∨ (inFsm .final).fsm = .final) ∧
    (updated.fsm = .keynonce ∨ updated.fsm = .stream) := by decide

theorem witness_LengthBlockSpellsBothBitLengths :
    8 * (0x1FFFFFFFFFFFFFFF : BitVec 64).toNat < 2 ^ 64 ∧ 8 * (60 : BitVec 64).toNat < 2 ^ 64 := by
  decide

theorem witness_StatusWordFieldsAreWhereTabled :
    (live small).build.k ≤ 32 ∧ (State.resetOf { small with k := 32 }).build.k ≤ 32 := by decide

theorem witness_InvMixColumnsUndoesMixColumns :
    (3 : Nat) < 4 ∧ byteAt 0x000102030405060708090a0b0c0d0e0f (4 * 3) = 0x0c ∧
    byteAt 0x000102030405060708090a0b0c0d0e0f (4 * 3 + 1) = 0x0d ∧
    byteAt 0x000102030405060708090a0b0c0d0e0f (4 * 3 + 2) = 0x0e ∧
    byteAt 0x000102030405060708090a0b0c0d0e0f (4 * 3 + 3) = 0x0f := by decide +kernel

theorem witness_KeyScheduleFollowsTheRecurrence :
    keyC128.length ∈ [16, 24, 32] ∧ 4 = keyC128.length / 4 ∧ 10 = 4 + 6 ∧
    (List.replicate 32 (0 : Byte)).length ∈ [16, 24, 32] ∧ (10 : Nat) < 11 := by decide

theorem witness_DecryptionUndoesEncryption :
    keyC128.length ∈ [16, 24, 32] ∧ (List.replicate 24 (1 : Byte)).length ∈ [16, 24, 32] ∧
    (List.replicate 32 (1 : Byte)).length ∈ [16, 24, 32] := by decide

theorem witness_LaneCipherIsBlockwise : 1 ≤ 1 ∧ 1 ≤ 4 := by decide

theorem witness_Inc32AddsInTheLastFourBytes :
    beNat ((blockBytes 0xcafebabefacedbaddecaf888fffffffd).drop 12) + 2 ≤ 0xFFFFFFFF := by
  decide +kernel

theorem witness_LaneCountersIssueTheSameBlocks :
    1 ≤ 4 ∧ (blockCounter 0xcafebabefacedbaddecaf888fffffffa).toNat + 5 ≤ 0xFFFFFFFF := by decide

theorem witness_CounterNeverGoesBack :
    exec (.cnext 32) (inFsm .uninit) = .next (after (exec (.cnext 32) (inFsm .uninit))) ∧
    instrOpcode (.cnext 32) ∉ [.cinit, .gcmInit, .zeroize] :=
  ⟨next_of_isNext _ (by decide +kernel), by decide⟩

theorem witness_AggregatedFoldIsSequential :
    powersHeld 4 (live small).hpow subkey0 ∧ 1 ≤ ([1, 2, 3, 4] : List Block).length ∧
    ([1, 2, 3, 4] : List Block).length ≤ 4 :=
  ⟨live_powers.1, by decide, by decide⟩

theorem witness_WidthDescentIsSequential : powersHeld 3 (live small2).hpow subkey0 ∧ 1 ≤ 3 :=
  ⟨live_powers.2, by decide⟩

theorem witness_ParallelUpdateIsByteSerial :
    (live small2).build.legal ∧ powersHeld 3 (live small2).hpow (live small2).h ∧
    (∀ i, (live small2).resn.toNat ≤ i → i < 16 → byteAt (live small2).res i = 0) ∧
    canIssue (live small2).ctr (blocksNeeded (live small2).resn.toNat 40) :=
  ⟨by decide, live_powers.2, witness_inv_live.2.residue_zero, by decide⟩

theorem witness_SplitOfAnUpdateDoesNotShow :
    (live small).streamOpen ∧ (live small).directionFree .enc ∧
    canIssue (live small).ctr
      (blocksNeeded (live small).resn.toNat (([1, 2] : List Byte).length + ([3] : List Byte).length)) := by
  decide

theorem witness_DecryptionRetracesEncryption :
    opened.streamOpen ∧ opened.dir = none ∧
    canIssue opened.ctr (blocksNeeded opened.resn.toNat ([1, 2, 3] : List Byte).length) := by decide

theorem witness_EncryptedMessageIsGcm :
    zeroKey.length = (16 : BitVec 8).toNat ∧ (16 : BitVec 8).toNat ∈ [16, 24, 32] ∧
    ([0xa0] : List Byte).length = (1 : BitVec 48).toNat ∧
    (∀ p ∈ ([[1, 2], [], [3]] : List (List Byte)), p.length < 2 ^ 48) ∧
    ([[1, 2], [], [3]] : List (List Byte)).flatten.length ≤ 16 * (2 ^ 32 - 2) ∧
    1 ≤ (16 : BitVec 8).toNat ∧ (16 : BitVec 8).toNat ≤ 16 := by decide

theorem witness_DecryptedMessageIsVerified :
    zeroKey.length = (16 : BitVec 8).toNat ∧ (16 : BitVec 8).toNat ∈ [16, 24, 32] ∧
    ([] : List Byte).length = (0 : BitVec 48).toNat ∧
    (∀ p ∈ ([[1, 2], [], [3]] : List (List Byte)), p.length < 2 ^ 48) ∧
    ([[1, 2], [], [3]] : List (List Byte)).flatten.length ≤ 16 * (2 ^ 32 - 2) ∧
    1 ≤ (1 : BitVec 8).toNat ∧ (1 : BitVec 8).toNat ≤ 16 ∧
    ([0xab] : List Byte).length = (1 : BitVec 8).toNat := by decide

theorem witness_MessageLimitIsExact :
    Inv (live small) ∧ (live small).streamOpen ∧ (live small).directionFree .enc ∧
    ([] : List Byte).length < 2 ^ 48 ∧
    exec (updateInstr .enc []) (live small) =
      .next (after (exec (updateInstr .enc []) (live small))) :=
  ⟨witness_inv_live.1, by decide, by decide, by decide, next_of_isNext _ (by decide +kernel)⟩

/-- Two states that differ in a secret only. -/
theorem witness_SecretsDoNotShow :
    instrOpcode (.gfold 1) ∈
      [.kexp, .cinit, .ginit, .gfold, .gfoldn, .gcmInit, .rdst, .zeroize] ∧
    hashed.h ≠ ({ hashed with h := 3 } : State).h ∧ hashed.outbox = [] ∧
    hashed.resn = ({ hashed with h := 3 } : State).resn ∧
    exec (.gfold 1) hashed = .next (after (exec (.gfold 1) hashed)) ∧
    exec (.gfold 1) { hashed with h := 3 } = .next (after (exec (.gfold 1) { hashed with h := 3 })) ∧
    exec (.cnext 1) hashed = .next (after (exec (.cnext 1) hashed)) ∧
    exec (.cnext 1) { hashed with h := 3 } = .next (after (exec (.cnext 1) { hashed with h := 3 })) ∧
    exec (.gcmVerify 1 [0xab]) updated = .next (after (exec (.gcmVerify 1 [0xab]) updated)) :=
  ⟨by decide, by decide, by decide, by decide, next_of_isNext _ (by decide +kernel),
    next_of_isNext _ (by decide +kernel), next_of_isNext _ (by decide +kernel),
    next_of_isNext _ (by decide +kernel), next_of_isNext _ (by decide +kernel)⟩

theorem witness_EveryCommandEndsByPriority :
    (Instr.gcmVerify 4 [1, 2, 3, 4]).WellFormed ∧
    reportedStatus (.gcmVerify 4 [1, 2, 3, 4]) updated = .tagMismatch ∧
    (Instr.gcmVerify 0 []).WellFormed ∧
    reportedStatus (.gcmVerify 0 []) (inFsm .final) = .illegalCommand := by decide +kernel

theorem witness_InvalidStateCausesAreComplete :
    operandLegal small (.gcmDec 1 [0]) = true ∧ invalidStateCause updated (.gcmDec 1 [0]) = true ∧
    invalidStateCause updated (.gcmEnc 1 [0]) = false ∧
    operandLegal small (.gfoldn 4 [0, 0, 0, 0]) = true ∧
    invalidStateCause State.reset (.gfoldn 4 [0, 0, 0, 0]) = true := by decide

theorem witness_AbortedStreamYieldsNoTag :
    let s : State := { updated with ctr := 0xFFFFFFFF }
    exec (updateInstr .enc [0]) s = .next (after (exec (updateInstr .enc [0]) s)) ∧
    (after (exec (updateInstr .enc [0]) s)).lastst = .messageTooLong ∧
    (∀ i ∈ [Instr.rdst, Instr.gcmFinal 16],
      instrOpcode i ≠ .gcmInit ∧ instrOpcode i ≠ .zeroize) ∧
    runCommands [.rdst, .gcmFinal 16] (after (exec (updateInstr .enc [0]) s)) =
      .next (after (runCommands [.rdst, .gcmFinal 16] (after (exec (updateInstr .enc [0]) s)))) ∧
    1 ≤ (16 : BitVec 8).toNat ∧ zeroKey.length = (16 : BitVec 8).toNat :=
  ⟨next_of_isNext _ (by decide +kernel), by decide +kernel, by decide,
    next_of_isNext _ (by decide +kernel), by decide, by decide⟩

theorem witness_SequencerFollowsItsTable :
    (Instr.cnext 32).WellFormed ∧ refusedIn (.cnext 32) (inFsm .stream).fsm (inFsm .stream).dir = true ∧
    operandLegal small (.cnext 32) = true ∧
    refusedIn (.gcmDec 1 [0]) updated.fsm updated.dir = true ∧
    refusedIn (.gcmEnc 1 [0]) updated.fsm updated.dir = false := by decide

theorem witness_ResponsesHaveTheTabledLength :
    ({ status := .ok, out := zeroKey } : Response).out.length < 2 ^ 48 ∧
    (Instr.encb 2 [0, 1]).WellFormed := by decide

theorem witness_BuildParametersDoNotShow :
    (Instr.gcmEnc 1 [0]).WellFormed ∧ Inv (live small) ∧ Inv (live small2) ∧
    live small2 = { live small with
      build := (live small2).build, hpow := (live small2).hpow, lanes := (live small2).lanes } ∧
    Instr.gcmEnc 1 [0] ≠ .rdst ∧
    operandLegal (live small).build (.gcmEnc 1 [0]) =
      operandLegal (live small2).build (.gcmEnc 1 [0]) ∧
    operandLegal (live small).build (.gfoldn 4 [0, 0, 0, 0]) ≠
      operandLegal (live small2).build (.gfoldn 4 [0, 0, 0, 0]) :=
  ⟨by decide, witness_inv_live.1, witness_inv_live.2, rfl, by decide, rfl, by decide⟩

/-- The invariants do not speak of the ports. -/
theorem inv_offered (s : State) (events : List HostEvent) (h : Inv s) :
    Inv { s with inbox := events } := by
  cases h
  constructor <;> assumption

theorem witness_StepKeepsTheInvariants :
    let s : State := { live small with inbox := [.packet [0x33, 4, 0, 0, 0, 0, 0, 0]] }
    Inv s ∧ step s = .next (after (step s)) :=
  ⟨inv_offered _ _ witness_inv_live.1, next_of_isNext _ (by decide +kernel)⟩

theorem witness_ResetHasTheInvariants :
    Build.standard.legal ∧ small2.legal ∧ ({ small with k := 32, lanes := 4 } : Build).legal := by
  decide

/-- A reachable state in which a command has run. -/
theorem witness_ReachableStatesHaveTheInvariants :
    Reachable (after (step ((State.resetOf small).withFetchWord 64 0x1000000000000000))) :=
  .stepped _ _ (.offered _ _ (.start small (by decide))) (next_of_isNext _ (by decide +kernel))

theorem witness_OfferedCommandsAreAnsweredInOrder :
    (∀ i ∈ [Instr.cnext 1, Instr.zeroize], i.WellFormed) ∧
    ({ inFsm .uninit with
        inbox := [.packet (encode (.cnext 1)), .packet (encode .zeroize)] } : State).inbox =
      [Instr.cnext 1, Instr.zeroize].map (fun i => .packet (encode i)) :=
  ⟨by simp [Instr.WellFormed], rfl⟩

theorem witness_BeatsCarryTheByteString :
    (0 : Nat) + 1 < (beatsOf (List.replicate 17 0)).length ∧
    (beatsOf (List.replicate 17 0))[0]? = some { data := 0, count := 16 } := by decide +kernel

end Sys2Proof.Tests
end

namespace Sys2Proof.Machine

/-! The reset state (spec/10_state.md R33). The two register files are read through accessors that
give zero beyond the last entry (log 9), so a cleared file reads zero at every index. -/

@[simp] theorem roundKey_zeroKeys (r : Nat) : roundKey zeroKeys r = 0 := by
  rw [roundKey, zeroKeys, Vector.getElem?_replicate]
  split
  · rfl
  · rfl

@[simp] theorem hpowAt_replicate_zero (k i : Nat) : hpowAt (List.replicate k 0) i = 0 := by
  rw [hpowAt, List.getElem?_replicate]
  split
  · rfl
  · rfl

/-- Settles O10: the two register files read zero by the lemmas of their accessors; every other
element is a field of the reset state. -/
theorem resetStateHasTheTabledValues : Obligations.ResetStateHasTheTabledValues := by
  rintro s rfl
  have erk_zero : ∀ r, roundKey State.reset.erk r = 0 := roundKey_zeroKeys
  have drk_zero : ∀ r, roundKey State.reset.drk r = 0 := roundKey_zeroKeys
  have hpow_length : State.reset.hpow.length = State.reset.build.k := List.length_replicate
  have hpow_zero : ∀ i, hpowAt State.reset.hpow i = 0 := hpowAt_replicate_zero _
  exact ⟨rfl, rfl, rfl, erk_zero, drk_zero, rfl, rfl, rfl, rfl, ⟨hpow_length, hpow_zero⟩, rfl, rfl,
    rfl, rfl, rfl, rfl, rfl, rfl, rfl, rfl, rfl, rfl, rfl⟩

end Sys2Proof.Machine

namespace Sys2Proof.Machine

/-! Decoding a packet (spec/30_encoding.md R63, R64, R67): the header is read back from its eight
bytes, and a payload of the header's length leaves three endings of the decoder. -/

/-- A header is the header its eight bytes spell (R42, R61). -/
@[simp] theorem ofNat_beNat_headerBytes (h : Header) :
    BitVec.ofNat 64 (beNat (beBytes 8 h.toNat)) = h := by
  apply BitVec.eq_of_toNat_eq
  have := h.isLt
  simp only [beNat_beBytes, BitVec.toNat_ofNat]
  omega

theorem decode_headerBytes_append (h : Header) (p : List Byte) :
    decode (beBytes 8 h.toNat ++ p) = decodeHeader h p := by
  have header_part : (beBytes 8 h.toNat ++ p).take 8 = beBytes 8 h.toNat :=
    List.take_left' (beBytes_length 8 _)
  have payload_part : (beBytes 8 h.toNat ++ p).drop 8 = p := List.drop_left' (beBytes_length 8 _)
  have whole : ¬ (beBytes 8 h.toNat ++ p).length < 8 := by simp
  rw [decode, if_neg whole, header_part, payload_part, ofNat_beNat_headerBytes]

/-- What the decoder makes of a payload of paylen(header) bytes: a reserved opcode, an instruction,
or a field that should be zero (R63 steps 1 and 2). -/
theorem decodeHeader_cases (h : Header) (p : List Byte) (hp : p.length = paylen h) :
    (opcodeOf (hdrOp h) = none ∧ decodeHeader h p = .error (.undefinedOpcode (hdrOp h))) ∨
    (∃ o, opcodeOf (hdrOp h) = some o ∧ fieldsZero (formatOf o) (hdrA h) (hdrLen h) = true ∧
      decodeHeader h p = .ok (assemble o (hdrA h) (hdrLen h) p)) ∨
    (∃ o, opcodeOf (hdrOp h) = some o ∧ fieldsZero (formatOf o) (hdrA h) (hdrLen h) = false ∧
      decodeHeader h p = .error (.nonzeroField o)) := by
  cases ho : opcodeOf (hdrOp h) with
  | none => exact .inl ⟨rfl, by simp [decodeHeader, hp, ho]⟩
  | some o =>
    cases hz : fieldsZero (formatOf o) (hdrA h) (hdrLen h) with
    | true => exact .inr (.inl ⟨o, rfl, hz, by simp [decodeHeader, hp, ho, hz]⟩)
    | false => exact .inr (.inr ⟨o, rfl, hz, by simp [decodeHeader, hp, ho, hz]⟩)

/-- A reserved opcode has no payload (R64). -/
theorem paylen_of_reserved (h : Header) (hr : opcodeOf (hdrOp h) = none) : paylen h = 0 := by
  simp [paylen, hr]

theorem decodeHeader_of_reserved (h : Header) (hr : opcodeOf (hdrOp h) = none) :
    decodeHeader h [] = .error (.undefinedOpcode (hdrOp h)) := by
  simp [decodeHeader, paylen_of_reserved h hr, hr]

/-- A reserved value is no command's number (R65, R67). -/
theorem ne_opNumber_of_reserved (op : BitVec 8) (hr : opcodeOf op = none) (o : Opcode) :
    op ≠ opNumber o := by
  rintro rfl
  simp at hr

/-! A step on a packet, by what the decoder makes of it. -/

theorem step_of_decode_ok (s : State) (bytes : List Byte) (rest : List HostEvent) (i : Instr)
    (hi : s.inbox = .packet bytes :: rest) (hd : decode bytes = .ok i) :
    step s = exec i { s with inbox := rest } := by
  simp only [step, fetch_packet s bytes rest hi, hd]

theorem step_of_decode_error (s : State) (bytes : List Byte) (rest : List HostEvent)
    (e : DecodeError) (hi : s.inbox = .packet bytes :: rest) (hd : decode bytes = .error e) :
    step s = endUndecoded e { s with inbox := rest } := by
  simp only [step, fetch_packet s bytes rest hi, hd]

/-- IllegalCommand under any opcode but RDST's latches LASTST (R67, R182). -/
theorem raiseIllegal_of_ne_rdst (op : BitVec 8) (s : State) (h : op ≠ opNumber .rdst) :
    s.raiseIllegal op = s.respond .illegalCommand [] := by
  rw [State.raiseIllegal, if_neg h, State.raise_eq_respond]

theorem step_of_reserved (s : State) (h : Header) (rest : List HostEvent)
    (hr : opcodeOf (hdrOp h) = none) (hi : s.inbox = .packet (beBytes 8 h.toNat) :: rest) :
    step s = .next (({ s with inbox := rest } : State).respond .illegalCommand []) := by
  have decoded : decode (beBytes 8 h.toNat) = .error (.undefinedOpcode (hdrOp h)) := by
    rw [← List.append_nil (beBytes 8 _), decode_headerBytes_append, decodeHeader_of_reserved h hr]
  rw [step_of_decode_error s _ rest _ hi decoded, endUndecoded,
    raiseIllegal_of_ne_rdst _ _ (ne_opNumber_of_reserved _ hr .rdst)]

/-! Every command ends with a next state: its rule is a chain of tests, and each ending responds. -/

/-- The outcome is a next state: neither a fault nor a refusal. -/
def Answers (r : Host.Outcome State Fault Refusal) : Prop := ∃ t, r = .next t

theorem answers_next (t : State) : Answers (.next t) := ⟨t, rfl⟩

theorem answers_ite {c : Prop} [Decidable c] {r r' : Host.Outcome State Fault Refusal}
    (h : Answers r) (h' : Answers r') : Answers (if c then r else r') := by
  split
  · exact h
  · exact h'

/-! The three shapes of a command's rule: one, two or three tests before the last ending. -/

section
variable (c d e : Prop) [Decidable c] [Decidable d] [Decidable e] (t u v w : State)

theorem answers_one_test : Answers (if c then .next t else .next u) :=
  answers_ite (answers_next t) (answers_next u)

theorem answers_two_tests : Answers (if c then .next t else if d then .next u else .next v) :=
  answers_ite (answers_next t) (answers_one_test d u v)

theorem answers_three_tests :
    Answers (if c then .next t else if d then .next u else if e then .next v else .next w) :=
  answers_ite (answers_next t) (answers_two_tests d e u v w)

end

theorem exec_answers (i : Instr) (s : State) : Answers (exec i s) := by
  cases i with
  | kexp a key => exact answers_two_tests ..
  | encb a blocks => exact answers_two_tests ..
  | decb a blocks => exact answers_two_tests ..
  | cinit nonce => exact answers_one_test ..
  | cnext a => exact answers_three_tests ..
  | ginit => exact answers_one_test ..
  | gfold block => exact answers_one_test ..
  | gfoldn a blocks => exact answers_two_tests ..
  | gfinal block => exact answers_one_test ..
  | gcmInit a len key nonce aad => exact answers_one_test ..
  | gcmEnc len plaintext => exact answers_next _
  | gcmDec len ciphertext => exact answers_next _
  | gcmFinal a => exact answers_two_tests ..
  | gcmVerify a tag => exact answers_three_tests ..
  | rdst => exact answers_next _
  | zeroize => exact answers_next _

/-- Decode is total: a whole packet is answered, whatever its header (R63, R67, R68). -/
theorem step_answers_of_paylen (s : State) (h : Header) (p : List Byte) (rest : List HostEvent)
    (hi : s.inbox = .packet (beBytes 8 h.toNat ++ p) :: rest) (hp : p.length = paylen h) :
    Answers (step s) := by
  have decoded := decode_headerBytes_append h p
  obtain ⟨-, hd⟩ | ⟨o, -, -, hd⟩ | ⟨o, -, -, hd⟩ := decodeHeader_cases h p hp
  · rw [step_of_decode_error s _ rest _ hi (decoded.trans hd)]
    exact answers_next _
  · rw [step_of_decode_ok s _ rest _ hi (decoded.trans hd)]
    exact exec_answers _ _
  · rw [step_of_decode_error s _ rest _ hi (decoded.trans hd)]
    exact answers_next _

theorem reserved_count :
    ((List.range 256).filter fun n => decide (opcodeOf (BitVec.ofNat 8 n) = none)).length = 240 := by
  decide +kernel

/-- Settles O5: the reserved values are counted over all 256; a reserved header decodes to
`undefinedOpcode`, whose ending is IllegalCommand; every other whole packet ends in that way too or
runs a command, and every command answers. -/
theorem reservedOpcodesEndIllegal : Obligations.ReservedOpcodesEndIllegal :=
  ⟨reserved_count, by decide, step_of_reserved, step_answers_of_paylen⟩

end Sys2Proof.Machine

namespace Sys2Proof.Machine

/-! The bytes of a block (spec/00_scope.md R10): a block is its sixteen bytes, and exclusive or acts
on each of them. -/

theorem getElem?_eq_byteAt_blockOfBytes (s : List Byte) (i : Nat) (h : s.length = 16)
    (hi : i < 16) : s[i]? = some (byteAt (blockOfBytes s) i) := by
  rw [← blockBytes_getElem? _ i hi, blockBytes_blockOfBytes s h]

theorem block_ext (x y : Block) (h : ∀ i < 16, byteAt x i = byteAt y i) : x = y := by
  have same_bytes : blockBytes x = blockBytes y := by
    apply List.ext_getElem?
    intro i
    by_cases hi : i < 16
    · rw [blockBytes_getElem? x i hi, blockBytes_getElem? y i hi, h i hi]
    · simp [hi]
  rw [← blockOfBytes_blockBytes x, same_bytes, blockOfBytes_blockBytes]

theorem byteAt_eq_extractLsb' (b : Block) (i : Nat) :
    byteAt b i = b.extractLsb' (8 * (15 - i)) 8 := by
  have powers : 256 ^ (15 - i) = 2 ^ (8 * (15 - i)) := by rw [pow_mul]; rfl
  rw [byteAt, BitVec.extractLsb', Nat.shiftRight_eq_div_pow, powers]

@[simp] theorem byteAt_xor (x y : Block) (i : Nat) :
    byteAt (x ^^^ y) i = byteAt x i ^^^ byteAt y i := by
  simp only [byteAt_eq_extractLsb', BitVec.extractLsb'_xor]

/-! The state array (spec/40_blockcipher.md R81), its rows read cyclically, so that the four lines
of R87 and of R88 are one line each, used at the four rows of a column. -/

/-- `s[r][c]` of R81, with row `r` taken modulo 4. -/
def stateByte (b : Block) (r c : Nat) : Byte := byteAt b (4 * c + r % 4)

@[simp] theorem stateByte_add_four (b : Block) (r c : Nat) :
    stateByte b (r + 4) c = stateByte b r c := by
  rw [stateByte, stateByte, Nat.add_mod_right]

@[simp] theorem stateByte_xor (x y : Block) (r c : Nat) :
    stateByte (x ^^^ y) r c = stateByte x r c ^^^ stateByte y r c := byteAt_xor x y _

theorem block_ext_stateByte (x y : Block)
    (h : ∀ r c, c < 4 → stateByte x r c = stateByte y r c) : x = y := by
  apply block_ext
  intro i hi
  have at_row_and_column := h (i % 4) (i / 4) (by omega)
  simpa only [stateByte, Nat.mod_mod, Nat.div_add_mod] using at_row_and_column

/-- The column function whose line for row `r` is `row`, applied from row `r` on. -/
def circulant (row : Byte → Byte → Byte → Byte → Byte) (a0 a1 a2 a3 : Byte) : List Byte :=
  [row a0 a1 a2 a3, row a1 a2 a3 a0, row a2 a3 a0 a1, row a3 a0 a1 a2]

theorem stateByte_mapColumns_circulant (row : Byte → Byte → Byte → Byte → Byte) (b : Block)
    (r c : Nat) (hc : c < 4) :
    stateByte (mapColumns (circulant row) b) r c =
      row (stateByte b r c) (stateByte b (r + 1) c) (stateByte b (r + 2) c)
        (stateByte b (r + 3) c) := by
  have hr : r % 4 < 4 := Nat.mod_lt r (by decide)
  apply Option.some.inj
  rw [stateByte, mapColumns, ← getElem?_eq_byteAt_blockOfBytes _ _ rfl (by omega)]
  simp only [stateByte, Nat.add_mod r]
  generalize r % 4 = j at hr
  interval_cases c <;> interval_cases j <;> rfl

/-! The lines of MixColumns and InvMixColumns (R87, R88). -/

/-- The line of R87. -/
def mixRow (a0 a1 a2 a3 : Byte) : Byte := gmul8 a0 2 ^^^ gmul8 a1 3 ^^^ a2 ^^^ a3

/-- The line of R88. -/
def invMixRow (a0 a1 a2 a3 : Byte) : Byte :=
  gmul8 a0 14 ^^^ gmul8 a1 11 ^^^ gmul8 a2 13 ^^^ gmul8 a3 9

theorem mixColumn_eq_circulant : mixColumn = circulant mixRow := by
  funext a0 a1 a2 a3
  simp only [mixColumn, circulant, mixRow, List.cons.injEq, and_true, true_and]
  exact ⟨by ac_rfl, by ac_rfl, by ac_rfl⟩

theorem invMixColumn_eq_circulant : invMixColumn = circulant invMixRow := by
  funext a0 a1 a2 a3
  simp only [invMixColumn, circulant, invMixRow, List.cons.injEq, and_true, true_and]
  exact ⟨by ac_rfl, by ac_rfl, by ac_rfl⟩

theorem stateByte_mixColumns (b : Block) (r c : Nat) (hc : c < 4) :
    stateByte (mixColumns b) r c =
      mixRow (stateByte b r c) (stateByte b (r + 1) c) (stateByte b (r + 2) c)
        (stateByte b (r + 3) c) := by
  rw [mixColumns, mixColumn_eq_circulant, stateByte_mapColumns_circulant mixRow b r c hc]

theorem stateByte_invMixColumns (b : Block) (r c : Nat) (hc : c < 4) :
    stateByte (invMixColumns b) r c =
      invMixRow (stateByte b r c) (stateByte b (r + 1) c) (stateByte b (r + 2) c)
        (stateByte b (r + 3) c) := by
  rw [invMixColumns, invMixColumn_eq_circulant, stateByte_mapColumns_circulant invMixRow b r c hc]

/-! The coefficients of R87 and R88 in `xtime`, which is linear (R82). -/

/-- What `xtime` exclusive-ors into the shifted byte: the low byte of the polynomial m(x), or
nothing. -/
def xtimeMask (top : Bool) : Byte := if top then 0x1B#8 else 0

theorem xtimeMask_xor (s t : Bool) : xtimeMask (s ^^ t) = xtimeMask s ^^^ xtimeMask t := by
  cases s <;> cases t <;> rfl

theorem xtime_eq_xor (b : Byte) : xtime b = (b <<< 1) ^^^ xtimeMask (b.getLsbD 7) := by
  rw [xtime, xtimeMask]
  split
  · rfl
  · exact BitVec.xor_zero.symm

@[simp] theorem xtime_xor (x y : Byte) : xtime (x ^^^ y) = xtime x ^^^ xtime y := by
  simp only [xtime_eq_xor, BitVec.shiftLeft_xor_distrib, BitVec.getLsbD_xor, xtimeMask_xor]
  ac_rfl

section
variable (a : Byte)

theorem gmul8_two : gmul8 a 2 = xtime a := by
  simp [gmul8, List.range, List.range.loop, xtimeIter]

theorem gmul8_three : gmul8 a 3 = a ^^^ xtime a := by
  simp [gmul8, List.range, List.range.loop, xtimeIter]

theorem gmul8_nine : gmul8 a 9 = a ^^^ xtime (xtime (xtime a)) := by
  simp [gmul8, List.range, List.range.loop, xtimeIter]

theorem gmul8_eleven : gmul8 a 11 = a ^^^ xtime a ^^^ xtime (xtime (xtime a)) := by
  simp [gmul8, List.range, List.range.loop, xtimeIter]

theorem gmul8_thirteen : gmul8 a 13 = a ^^^ xtime (xtime a) ^^^ xtime (xtime (xtime a)) := by
  simp [gmul8, List.range, List.range.loop, xtimeIter]

theorem gmul8_fourteen : gmul8 a 14 = xtime a ^^^ xtime (xtime a) ^^^ xtime (xtime (xtime a)) := by
  simp [gmul8, List.range, List.range.loop, xtimeIter]

end

theorem mixRow_eq_xtime (a0 a1 a2 a3 : Byte) :
    mixRow a0 a1 a2 a3 = xtime (a0 ^^^ a1) ^^^ (a1 ^^^ a2 ^^^ a3) := by
  simp only [mixRow, gmul8_two, gmul8_three, xtime_xor]
  ac_rfl

/-- The multiples by 2, 4 and 8, each taken once for the entries whose coefficient has that bit. -/
theorem invMixRow_eq_xtime (a0 a1 a2 a3 : Byte) :
    invMixRow a0 a1 a2 a3 =
      a1 ^^^ a2 ^^^ a3 ^^^ xtime (a0 ^^^ a1) ^^^ xtime (xtime (a0 ^^^ a2))
        ^^^ xtime (xtime (xtime (a0 ^^^ a1 ^^^ a2 ^^^ a3))) := by
  simp only [invMixRow, gmul8_nine, gmul8_eleven, gmul8_thirteen, gmul8_fourteen, xtime_xor]
  ac_rfl

theorem invMixRow_xor (a0 a1 a2 a3 b0 b1 b2 b3 : Byte) :
    invMixRow (a0 ^^^ b0) (a1 ^^^ b1) (a2 ^^^ b2) (a3 ^^^ b3) =
      invMixRow a0 a1 a2 a3 ^^^ invMixRow b0 b1 b2 b3 := by
  simp only [invMixRow_eq_xtime, xtime_xor]
  ac_rfl

/-- The two matrices are inverse already over polynomials, without the modulus: multiplied out by
linearity, every multiple of an entry but `a0` itself occurs an even number of times. -/
theorem invMixRow_mixRow (a0 a1 a2 a3 : Byte) :
    invMixRow (mixRow a0 a1 a2 a3) (mixRow a1 a2 a3 a0) (mixRow a2 a3 a0 a1) (mixRow a3 a0 a1 a2)
      = a0 := by
  simp only [invMixRow_eq_xtime, mixRow_eq_xtime, xtime_xor]
  ac_nf
  simp only [LawfulXor.xor_self, xor_zero]

theorem invMixColumns_mixColumns (b : Block) : invMixColumns (mixColumns b) = b := by
  apply block_ext_stateByte
  intro r c hc
  have four_on : stateByte b (r + 4) c = stateByte b r c := stateByte_add_four b r c
  have five_on : stateByte b (r + 5) c = stateByte b (r + 1) c := stateByte_add_four b (r + 1) c
  have six_on : stateByte b (r + 6) c = stateByte b (r + 2) c := stateByte_add_four b (r + 2) c
  simp only [stateByte_invMixColumns _ r c hc, stateByte_mixColumns b _ c hc, Nat.add_assoc,
    Nat.reduceAdd, four_on, five_on, six_on, invMixRow_mixRow]

theorem invMixColumns_xor (x y : Block) :
    invMixColumns (x ^^^ y) = invMixColumns x ^^^ invMixColumns y := by
  apply block_ext_stateByte
  intro r c hc
  simp only [stateByte_invMixColumns _ r c hc, stateByte_xor, invMixRow_xor]

/-- Settles O31: row by row of the state array, InvMixColumns undoes one line of MixColumns and each
of its lines is linear; its four lines are those of R88. -/
theorem invMixColumnsUndoesMixColumns : Obligations.InvMixColumnsUndoesMixColumns := by
  refine ⟨invMixColumns_mixColumns, invMixColumns_xor, ?_⟩
  rintro b c _ _ _ _ hc rfl rfl rfl rfl
  have line := fun r => stateByte_invMixColumns b r c hc
  refine ⟨line 0, (line 1).trans ?_, (line 2).trans ?_, (line 3).trans ?_⟩
  all_goals
    simp only [invMixRow, stateByte, Nat.reduceAdd, Nat.reduceMod]
    ac_rfl

end Sys2Proof.Machine

namespace Sys2Proof.Machine

/-! The S-box tables (R83, R84). -/

/-- The affine map of R83. -/
def affine8 (b : Byte) : Byte :=
  b ^^^ b.rotateLeft 1 ^^^ b.rotateLeft 2 ^^^ b.rotateLeft 3 ^^^ b.rotateLeft 4 ^^^ 0x63#8

/-- The byte that `affine8` takes to `s`. -/
def unaffine8 (s : Byte) : Byte := s.rotateLeft 1 ^^^ s.rotateLeft 3 ^^^ s.rotateLeft 6 ^^^ 0x05#8

theorem affine8_unaffine8 : ∀ s : Byte, affine8 (unaffine8 s) = s := by decide +kernel

/-- The multiplicative inverse in GF(2^8), 0 for 0, as the S-box holds it. -/
def ginv8 (v : Byte) : Byte := unaffine8 (sbox v)

theorem ginv8_zero : ginv8 0 = 0 := by decide

theorem gmul8_ginv8 : ∀ v : Byte, v ≠ 0 → gmul8 v (ginv8 v) = 1 := by decide +kernel

theorem invSbox_sbox : ∀ v : Byte, invSbox (sbox v) = v := by decide +kernel

theorem bytesOfBlocks_getElem? (bs : List Block) (q r : Nat) (hr : r < 16) :
    (bytesOfBlocks bs)[16 * q + r]? = bs[q]?.map fun b => byteAt b r := by
  induction bs generalizing q with
  | nil => simp
  | cons b bs ih =>
    rw [bytesOfBlocks_cons]
    cases q with
    | zero =>
      rw [List.getElem?_append_left (by simp; omega)]
      simpa using blockBytes_getElem? b r hr
    | succ q =>
      rw [List.getElem?_append_right (by simp; omega), blockBytes_length,
        show 16 * (q + 1) + r - 16 = 16 * q + r by omega, ih q, List.getElem?_cons_succ]

/-- The entries of a table of 16 rows, read in order, are the bytes of its rows. -/
theorem map_tableEntry (rows : List Block) (h : rows.length = 16) :
    ((List.range 256).map fun v => tableEntry rows (BitVec.ofNat 8 v)) = bytesOfBlocks rows := by
  apply List.ext_getElem?
  intro i
  by_cases hi : i < 256
  · have row : rows[i / 16]? = some (rows[i / 16]'(by omega)) := List.getElem?_eq_getElem _
    have entry := bytesOfBlocks_getElem? rows (i / 16) (i % 16) (by omega)
    rw [Nat.div_add_mod, row] at entry
    rw [entry]
    simp [tableEntry, hi, row, Nat.mod_eq_of_lt hi]
  · simp [hi, h]

/-- Settles O30: the byte the affine map takes to SBOX[v] is the inverse of v, which is checked by
the field's product at each of the 256 bytes; a table read in order is the bytes of its rows. -/
theorem sboxTablesAreTheAffineInverse : Obligations.SboxTablesAreTheAffineInverse := by
  have affine_of_inverse : ∀ v, sbox v = affine8 (ginv8 v) := fun v =>
    (affine8_unaffine8 (sbox v)).symm
  have inverse_zero : ∀ v, v = 0 → ginv8 v = 0 := fun v h => h ▸ ginv8_zero
  exact ⟨fun v => ⟨ginv8 v, inverse_zero v, gmul8_ginv8 v, affine_of_inverse v⟩, invSbox_sbox,
    map_tableEntry sboxRows rfl, map_tableEntry invSboxRows rfl⟩

end Sys2Proof.Machine

namespace Sys2Proof.Machine

/-! The commands of unit BC (R100 to R102). -/

/-- The rule ENCB and DECB share: the width, then the key, then the output. -/
def blockCommand (a : BitVec 8) (out : List Byte) (s : State) : Host.Outcome State Fault Refusal :=
  if ¬ encWidthLegal a then .next (s.raise .illegalCommand)
  else if s.kv = false then .next (s.raise .invalidState)
  else .next (s.respond .ok out)

theorem exec_encb (a : BitVec 8) (blocks : List Block) (s : State) :
    exec (.encb a blocks) s =
      blockCommand a (blocks.flatMap fun b => blockBytes (encryptBlock s.erk s.nr.toNat b)) s := by
  rw [← List.flatMap_map]
  rfl

theorem exec_decb (a : BitVec 8) (blocks : List Block) (s : State) :
    exec (.decb a blocks) s =
      blockCommand a (blocks.flatMap fun b => blockBytes (decryptBlock s.drk s.nr.toNat b)) s := by
  rw [← List.flatMap_map]
  rfl

section
variable (a : BitVec 8) (out : List Byte) (s : State)

theorem blockCommand_of_illegal_width (h : ¬ encWidthLegal a) :
    blockCommand a out s = .next (s.respond .illegalCommand []) := if_pos h

theorem blockCommand_of_no_key (h : encWidthLegal a) (hk : s.kv = false) :
    blockCommand a out s = .next (s.respond .invalidState []) := by
  rw [blockCommand, if_neg (not_not_intro h), if_pos hk, State.raise_eq_respond]

theorem blockCommand_of_key (h : encWidthLegal a) (hk : s.kv = true) :
    blockCommand a out s = .next (s.respond .ok out) := by
  rw [blockCommand, if_neg (not_not_intro h), if_neg (by simp [hk])]

end

/-- Settles O12: ENCB is the block command whose output is E of each block. -/
theorem encbFollowsItsRule : Obligations.EncbFollowsItsRule := by
  intro a blocks s _
  rw [exec_encb]
  exact ⟨blockCommand_of_illegal_width a _ s, blockCommand_of_no_key a _ s,
    blockCommand_of_key a _ s⟩

/-- Settles O13: DECB is the block command whose output is D of each block. -/
theorem decbFollowsItsRule : Obligations.DecbFollowsItsRule := by
  intro a blocks s _
  rw [exec_decb]
  exact ⟨blockCommand_of_illegal_width a _ s, blockCommand_of_no_key a _ s,
    blockCommand_of_key a _ s⟩

section
variable (a : BitVec 8) (key : List Byte) (s : State)

theorem exec_kexp_of_not_manual (h : ¬ s.manual) :
    exec (.kexp a key) s = .next (s.respond .invalidState []) := if_pos h

theorem exec_kexp_of_illegal_length (h : s.manual) (ha : ¬ keyLengthLegal a) :
    exec (.kexp a key) s = .next (s.clearKey.respond .invalidKeyLength []) :=
  (if_neg (not_not_intro h)).trans (if_pos ha)

theorem exec_kexp_of_legal_length (h : s.manual) (ha : keyLengthLegal a) :
    exec (.kexp a key) s = .next ((s.clearKey.loadKey a key).respond .ok []) :=
  (if_neg (not_not_intro h)).trans (if_neg (not_not_intro ha))

end

theorem keySchedule_nr (key : List Byte) : (keySchedule key).nr = key.length / 4 + 6 := rfl

/-- Settles O11: the three endings of KEXP, the round count read off the key's length. -/
theorem kexpFollowsItsRule : Obligations.KexpFollowsItsRule := by
  intro a key s hlen
  have rounds : (keySchedule key).nr = a.toNat / 4 + 6 := by rw [keySchedule_nr, hlen]
  refine ⟨exec_kexp_of_not_manual a key s, exec_kexp_of_illegal_length a key s, fun h ha => ?_⟩
  rw [exec_kexp_of_legal_length a key s h ha, ← rounds]
  rfl

end Sys2Proof.Machine

namespace Sys2Proof.Machine

/-! The counter (spec/41_counter.md R111 to R113). A counter block is a nonce and a block counter;
its bytes are the twelve of the one followed by the four of the other. -/

theorem blockOfBytes_nonce_counter (nonce : Nonce) (w : BitVec 32) :
    blockOfBytes (beBytes 12 nonce.toNat ++ beBytes 4 w.toNat) = nonce ++ w := by
  apply BitVec.eq_of_toNat_eq
  have hn := nonce.isLt
  have hw := w.isLt
  rw [BitVec.toNat_append, ← Nat.shiftLeft_add_eq_or_of_lt hw, Nat.shiftLeft_eq]
  simp only [blockOfBytes, BitVec.toNat_ofNat, beNat_append, beNat_beBytes, beBytes_length]
  omega

theorem blockBytes_nonce_counter (nonce : Nonce) (w : BitVec 32) :
    blockBytes (nonce ++ w) = beBytes 12 nonce.toNat ++ beBytes 4 w.toNat := by
  rw [← blockOfBytes_nonce_counter, blockBytes_blockOfBytes _ (by simp)]

@[simp] theorem nonceOf_append_blockCounter (c : Block) : nonceOf c ++ blockCounter c = c :=
  (BitVec.extractLsb'_append_extractLsb'_eq_extractLsb' (by decide)).trans
    BitVec.extractLsb'_eq_self

theorem blockBytes_eq_nonce_counter (c : Block) :
    blockBytes c = beBytes 12 (nonceOf c).toNat ++ beBytes 4 (blockCounter c).toNat := by
  rw [← blockBytes_nonce_counter, nonceOf_append_blockCounter]

theorem blockBytes_take_twelve (c : Block) :
    (blockBytes c).take 12 = beBytes 12 (nonceOf c).toNat := by
  rw [blockBytes_eq_nonce_counter, List.take_left' (beBytes_length 12 _)]

theorem beNat_blockBytes_drop_twelve (c : Block) :
    beNat ((blockBytes c).drop 12) = (blockCounter c).toNat := by
  rw [blockBytes_eq_nonce_counter, List.drop_left' (beBytes_length 12 _), beNat_beBytes]
  exact Nat.mod_eq_of_lt (blockCounter c).isLt

/-- In range the sum does not wrap (R111, R113). -/
theorem toNat_blockCounter_add (c : Block) (n : Nat) (h : canIssue c n) :
    (blockCounter c + BitVec.ofNat 32 n).toNat = (blockCounter c).toNat + n := by
  rw [canIssue, counterTop] at h
  rw [BitVec.toNat_add, BitVec.toNat_ofNat]
  omega

/-- Settles O35: written as nonce and counter, both sides have the nonce's twelve bytes, and the
four bytes after them spell the sum, which does not wrap. -/
theorem inc32AddsInTheLastFourBytes : Obligations.Inc32AddsInTheLastFourBytes := by
  intro c n hsum
  rw [beNat_blockBytes_drop_twelve] at hsum ⊢
  rw [inc32, blockBytes_nonce_counter, blockBytes_take_twelve, toNat_blockCounter_add c n hsum]

theorem seedBlock_eq_blockOfBytes (nonce : Nonce) :
    seedBlock nonce = blockOfBytes (beBytes 12 nonce.toNat ++ [0x00, 0x00, 0x00, 0x01]) :=
  (blockOfBytes_nonce_counter nonce 1#32).symm

section
variable (nonce : Nonce) (s : State)

theorem exec_cinit_of_not_manual (h : ¬ s.manual) :
    exec (.cinit nonce) s = .next (s.respond .invalidState []) := if_pos h

theorem exec_cinit_of_manual (h : s.manual) :
    exec (.cinit nonce) s = .next ((s.seed nonce).respond .ok []) := if_neg (not_not_intro h)

end

/-- Settles O14: the two endings of CINIT, the seed block written as its sixteen bytes. -/
theorem cinitFollowsItsRule : Obligations.CinitFollowsItsRule := by
  intro nonce s
  refine ⟨exec_cinit_of_not_manual nonce s, fun h => ?_⟩
  rw [exec_cinit_of_manual nonce s h, ← seedBlock_eq_blockOfBytes]
  rfl

theorem bytesOfBlocks_issuedBlocks (c : Block) (n : Nat) :
    bytesOfBlocks (issuedBlocks c n) =
      (List.range n).flatMap fun i => blockBytes (inc32 c (i + 1)) := List.flatMap_map ..

section
variable (a : BitVec 8) (s : State)

theorem exec_cnext_of_illegal_count (h : ¬ issueCountLegal a) :
    exec (.cnext a) s = .next (s.respond .illegalCommand []) := if_pos h

theorem exec_cnext_of_invalid_state (ha : issueCountLegal a) (h : ¬ s.manual ∨ s.cv = false) :
    exec (.cnext a) s = .next (s.respond .invalidState []) :=
  (if_neg (not_not_intro ha)).trans (if_pos h)

/-- After the tests of the operand and of the state, CNEXT is the range test of R113. -/
theorem exec_cnext_of_seeded (ha : issueCountLegal a) (hm : s.manual) (hv : s.cv = true) :
    exec (.cnext a) s =
      if ¬ canIssue s.ctr a.toNat then .next (s.raise .messageTooLong)
      else .next ((s.advance a.toNat).respond .ok (bytesOfBlocks (issuedBlocks s.ctr a.toNat))) :=
  (if_neg (not_not_intro ha)).trans (if_neg (by simp [hm, hv]))

theorem exec_cnext_of_out_of_range (ha : issueCountLegal a) (hm : s.manual) (hv : s.cv = true)
    (hr : ¬ canIssue s.ctr a.toNat) :
    exec (.cnext a) s = .next (s.respond .messageTooLong []) :=
  (exec_cnext_of_seeded a s ha hm hv).trans (if_pos hr)

theorem exec_cnext_of_in_range (ha : issueCountLegal a) (hm : s.manual) (hv : s.cv = true)
    (hr : canIssue s.ctr a.toNat) :
    exec (.cnext a) s =
      .next ((s.advance a.toNat).respond .ok (bytesOfBlocks (issuedBlocks s.ctr a.toNat))) :=
  (exec_cnext_of_seeded a s ha hm hv).trans (if_neg (not_not_intro hr))

end

/-- Settles O15: the four endings of CNEXT, the issued blocks written out as bytes. -/
theorem cnextFollowsItsRule : Obligations.CnextFollowsItsRule := by
  intro a s
  refine ⟨fun ha => exec_cnext_of_illegal_count a s (Nat.not_le.mpr ha),
    exec_cnext_of_invalid_state a s,
    fun ha hm hv hr => exec_cnext_of_out_of_range a s ha hm hv (Nat.not_le.mpr hr),
    fun ha hm hv hr => ?_⟩
  rw [exec_cnext_of_in_range a s ha hm hv hr, bytesOfBlocks_issuedBlocks]
  rfl

end Sys2Proof.Machine

namespace Sys2Proof.Machine

/-! The power table (spec/42_galois.md R123, R130). -/

theorem gfPow_succ (h : Block) (i : Nat) (hi : 1 ≤ i) : gfPow h (i + 1) = gfmul (gfPow h i) h := by
  cases i with
  | zero => omega
  | succ i => rfl

/-- Begun at H^j, the running product lists the powers from H^j on. -/
theorem powersFrom_gfPow (h : Block) (n j : Nat) (hj : 1 ≤ j) :
    powersFrom h n (gfPow h j) = (List.range' j n).map (gfPow h) := by
  induction n generalizing j with
  | zero => rfl
  | succ n ih =>
    rw [powersFrom, ← gfPow_succ h j hj, ih (j + 1) (by omega), List.range'_succ, List.map_cons]

theorem powerTable_eq_map_gfPow (k : Nat) (h : Block) :
    powerTable k h = (List.range' 1 k).map (gfPow h) := powersFrom_gfPow h k 1 le_rfl

theorem hpowAt_powerTable (k : Nat) (h : Block) (i : Nat) (hi : 1 ≤ i) (hk : i ≤ k) :
    hpowAt (powerTable k h) i = gfPow h i := by
  have inside : i - 1 < k := by omega
  have entry : 1 + (i - 1) = i := by omega
  simp [hpowAt, powerTable_eq_map_gfPow, inside, entry]

theorem powersHeld_powerTable (k : Nat) (h : Block) : powersHeld k (powerTable k h) h :=
  ⟨by simp [powerTable_eq_map_gfPow], hpowAt_powerTable k h⟩

/-! The commands of unit GA (R132, R142 to R144). -/

/-- The rule these commands share: manual mode and what the command needs, KV or GV, or else
InvalidState; `ending` is the state after the OK ending. -/
def manualCommand (ready : Bool) (ending s : State) : Host.Outcome State Fault Refusal :=
  if ¬ s.manual ∨ ready = false then .next (s.raise .invalidState) else .next ending

section
variable (ready : Bool) (ending s : State)

theorem manualCommand_of_invalid_state (h : ¬ s.manual ∨ ready = false) :
    manualCommand ready ending s = .next (s.respond .invalidState []) := if_pos h

theorem manualCommand_of_ready (hm : s.manual) (hr : ready = true) :
    manualCommand ready ending s = .next ending := if_neg (by simp [hm, hr])

end

section
variable (block : Block) (a : BitVec 8) (blocks : List Block) (s : State)

theorem exec_ginit : exec .ginit s = manualCommand s.kv (s.hashInit.respond .ok []) s := rfl

theorem exec_gfold :
    exec (.gfold block) s = manualCommand s.gv ((s.foldIn block).respond .ok []) s := rfl

theorem exec_gfinal :
    exec (.gfinal block) s =
      manualCommand s.gv ((s.foldIn block).respond .ok (blockBytes (s.foldIn block).acc)) s := rfl

theorem exec_gfoldn_of_illegal_count (h : ¬ foldCountLegal s.build a) :
    exec (.gfoldn a blocks) s = .next (s.respond .illegalCommand []) := if_pos h

theorem exec_gfoldn_of_legal_count (h : foldCountLegal s.build a) :
    exec (.gfoldn a blocks) s =
      manualCommand s.gv ((s.foldAggIn blocks).respond .ok []) s := if_neg (not_not_intro h)

end

/-- Settles O16: the table GINIT writes holds the powers of the subkey. -/
theorem ginitFollowsItsRule : Obligations.GinitFollowsItsRule := by
  intro s
  rw [exec_ginit]
  refine ⟨manualCommand_of_invalid_state _ _ s, fun hm hv => ?_⟩
  exact ⟨powerTable s.build.k (s.encrypt 0), powersHeld_powerTable _ _,
    manualCommand_of_ready _ _ s hm hv⟩

/-- Settles O17: the two endings of GFOLD. -/
theorem gfoldFollowsItsRule : Obligations.GfoldFollowsItsRule := by
  intro block s
  rw [exec_gfold]
  exact ⟨manualCommand_of_invalid_state _ _ s, manualCommand_of_ready _ _ s⟩

/-- Settles O18: the three endings of GFOLDN; the partial products it leaves are zero (R138). -/
theorem gfoldnFollowsItsRule : Obligations.GfoldnFollowsItsRule := by
  intro a blocks s _
  refine ⟨fun ha => exec_gfoldn_of_illegal_count a blocks s (by rw [foldCountLegal]; omega),
    fun h1 hk h => ?_, fun h1 hk hm hv => ⟨0, 0, 0, ?_⟩⟩
  · rw [exec_gfoldn_of_legal_count a blocks s ⟨h1, hk⟩]
    exact manualCommand_of_invalid_state _ _ s h
  · rw [exec_gfoldn_of_legal_count a blocks s ⟨h1, hk⟩]
    exact manualCommand_of_ready _ _ s hm hv

/-- Settles O19: GFINAL folds as GFOLD does and answers with the accumulator. -/
theorem gfinalFollowsItsRule : Obligations.GfinalFollowsItsRule := by
  intro block s
  rw [exec_gfinal]
  exact ⟨manualCommand_of_invalid_state _ _ s, manualCommand_of_ready _ _ s⟩

end Sys2Proof.Machine

namespace Sys2Proof.Machine

/-! The length block (spec/42_galois.md R136): two 64-bit integers side by side are spelled one
after the other. -/

theorem beBytes_add (m n u v : Nat) (hu : u < 256 ^ m) (hv : v < 256 ^ n) :
    beBytes (m + n) (256 ^ n * u + v) = beBytes m u ++ beBytes n v := by
  have h := beBytes_beNat (beBytes m u ++ beBytes n v)
  rwa [List.length_append, beNat_append, beNat_beBytes, beNat_beBytes, beBytes_length,
    beBytes_length, Nat.mod_eq_of_lt hu, Nat.mod_eq_of_lt hv] at h

theorem blockBytes_append_words (u v : BitVec 64) :
    blockBytes (u ++ v) = beBytes 8 u.toNat ++ beBytes 8 v.toNat := by
  have value : (u ++ v).toNat = 256 ^ 8 * u.toNat + v.toNat := by
    rw [BitVec.toNat_append, ← Nat.shiftLeft_add_eq_or_of_lt v.isLt, Nat.shiftLeft_eq]
    omega
  exact (congrArg (beBytes 16) value).trans (beBytes_add 8 8 _ _ u.isLt v.isLt)

/-- A bit count that fits does not wrap (R136, R174 d). -/
theorem toNat_eight_mul (n : BitVec 64) (h : 8 * n.toNat < 2 ^ 64) :
    (8 * n).toNat = 8 * n.toNat := (BitVec.toNat_mul 8 n).trans (Nat.mod_eq_of_lt h)

/-- Settles O28: the block is the two bit counts side by side, and neither wraps. -/
theorem lengthBlockSpellsBothBitLengths : Obligations.LengthBlockSpellsBothBitLengths := by
  intro aad ct haad hct
  rw [lenBlock, blockBytes_append_words, toNat_eight_mul aad haad, toNat_eight_mul ct hct]

end Sys2Proof.Machine

namespace Sys2Proof.Machine

/-! Closing a message (spec/43_aead_sequencer.md R160 to R162). -/

/-- Differences gathered by OR vanish exactly when each of them does. -/
theorem foldl_or_eq_zero_iff (f : Nat → Byte) (l : List Nat) (d : Byte) :
    l.foldl (fun d i => d ||| f i) d = 0 ↔ d = 0 ∧ ∀ i ∈ l, f i = 0 := by
  induction l generalizing d with
  | nil => simp
  | cons i l ih =>
    rw [List.foldl_cons, ih, List.forall_mem_cons, ← and_assoc]
    exact and_congr_left' BitVec.or_eq_zero_iff

/-- The OR of the differences decides as the comparison of the two strings would (R162). -/
theorem tagDiff_eq_zero_iff (t : Nat) (tag : Block) (expected : List Byte) (ht : t ≤ 16)
    (hlen : expected.length = t) : tagDiff t tag expected = 0 ↔ expected = tagBytes t tag := by
  have entry (i : Nat) (hi : i < t) : (tagBytes t tag)[i]? = some (byteAt tag i) := by
    rw [tagBytes, List.getElem?_take_of_lt hi, blockBytes_getElem? tag i (by omega)]
  have no_difference : tagDiff t tag expected = 0 ↔
      ∀ i < t, byteAt tag i = expected[i]?.getD 0 := by
    rw [tagDiff, foldl_or_eq_zero_iff]
    simp
  rw [no_difference]
  constructor
  · intro same
    apply List.ext_getElem?
    intro i
    by_cases hi : i < t
    · rw [entry i hi, same i hi, List.getElem?_eq_getElem (by omega), Option.getD_some]
    · rw [List.getElem?_eq_none (by omega), List.getElem?_eq_none (by simp [tagBytes]; omega)]
  · intro same i hi
    rw [same, entry i hi, Option.getD_some]

/-- No message is open in the other two states (R150). -/
theorem not_streamOpen_iff (s : State) :
    ¬ s.streamOpen ↔ s.fsm = .uninit ∨ s.fsm = .final := by
  cases h : s.fsm <;> simp [State.streamOpen, h]

/-- The rule GCM_FINAL and GCM_VERIFY share: the tag length, then an open message; `ending` is the
state after the message is closed and the answer sent. -/
def closeCommand (a : BitVec 8) (ending s : State) : Host.Outcome State Fault Refusal :=
  if ¬ tagLengthLegal a then .next (s.raise .illegalCommand)
  else if ¬ s.streamOpen then .next (s.raise .invalidState)
  else .next ending

/-- The status GCM_VERIFY answers with (R162, R187). -/
def verdict (a : BitVec 8) (tag : List Byte) (s : State) : Status :=
  if tagDiff a.toNat s.closeTag tag = 0 then .ok else .tagMismatch

section
variable (a : BitVec 8) (tag : List Byte) (s : State)

theorem exec_gcmFinal :
    exec (.gcmFinal a) s =
      closeCommand a (s.closed.respond .ok (tagBytes a.toNat s.closeTag)) s := rfl

/-- Both answers of GCM_VERIFY are one ending with one status: the effects do not depend on the
comparison (R162). -/
theorem exec_gcmVerify :
    exec (.gcmVerify a tag) s = closeCommand a (s.closed.respond (verdict a tag s) []) s := by
  have answer : (if tagDiff a.toNat s.closeTag tag = 0 then .next (s.closed.respond .ok [])
      else .next (s.closed.raise .tagMismatch) : Host.Outcome State Fault Refusal) =
      .next (s.closed.respond (verdict a tag s) []) := by
    rw [verdict]
    split
    · rfl
    · rfl
  rw [closeCommand, ← answer]
  rfl

theorem verdict_eq (ha : a.toNat ≤ 16) (hlen : tag.length = a.toNat) :
    verdict a tag s = if tag = tagBytes a.toNat s.closeTag then .ok else .tagMismatch :=
  if_congr (tagDiff_eq_zero_iff a.toNat s.closeTag tag ha hlen) rfl rfl

end

section
variable (a : BitVec 8) (ending s : State)

theorem closeCommand_of_illegal_length (h : a.toNat < 1 ∨ 16 < a.toNat) :
    closeCommand a ending s = .next (s.respond .illegalCommand []) :=
  if_pos (by rw [tagLengthLegal]; omega)

theorem closeCommand_of_legal_length (h1 : 1 ≤ a.toNat) (h16 : a.toNat ≤ 16) :
    closeCommand a ending s =
      if ¬ s.streamOpen then .next (s.raise .invalidState) else .next ending :=
  if_neg (not_not_intro ⟨h1, h16⟩)

theorem closeCommand_of_no_message (h1 : 1 ≤ a.toNat) (h16 : a.toNat ≤ 16)
    (h : s.fsm = .uninit ∨ s.fsm = .final) :
    closeCommand a ending s = .next (s.respond .invalidState []) :=
  (closeCommand_of_legal_length a ending s h1 h16).trans (if_pos ((not_streamOpen_iff s).mpr h))

theorem closeCommand_of_open (h1 : 1 ≤ a.toNat) (h16 : a.toNat ≤ 16) (h : s.streamOpen) :
    closeCommand a ending s = .next ending :=
  (closeCommand_of_legal_length a ending s h1 h16).trans (if_neg (not_not_intro h))

end

/-- Settles O24: GCM_FINAL is the closing command that answers with the leftmost bytes of the tag;
`closed` and `closeTag` are the folds written out. -/
theorem gcmFinalFollowsItsRule : Obligations.GcmFinalFollowsItsRule := by
  intro a s
  rw [exec_gcmFinal]
  refine ⟨closeCommand_of_illegal_length a _ s, closeCommand_of_no_message a _ s, ?_⟩
  rintro h1 h16 ho acc acc' rfl rfl
  exact closeCommand_of_open a _ s h1 h16 ho

/-- Settles O25: GCM_VERIFY is the closing command that answers with its verdict, and the OR of the
byte differences gives the verdict of comparing the two strings. -/
theorem gcmVerifyFollowsItsRule : Obligations.GcmVerifyFollowsItsRule := by
  intro a tag s hlen
  rw [exec_gcmVerify]
  refine ⟨closeCommand_of_illegal_length a _ s, closeCommand_of_no_message a _ s, ?_⟩
  rintro h1 h16 ho acc acc' st rfl rfl rfl
  rw [closeCommand_of_open a _ s h1 h16 ho, verdict_eq a tag s h16 hlen]
  rfl

end Sys2Proof.Machine

namespace Sys2Proof.Machine

/-! The update of a stream (spec/43_aead_sequencer.md R152 to R154). -/

/-- The direction a stream latched in `d` refuses (R152). -/
def Direction.opposite : Direction → Direction
  | .enc => .dec
  | .dec => .enc

theorem directionFree_iff (d : Direction) (s : State) :
    s.directionFree d ↔ s.dir ≠ some d.opposite := by
  cases h : s.dir with
  | none => simp [State.directionFree, h]
  | some d' => cases d <;> cases d' <;> simp [State.directionFree, Direction.opposite, h]

theorem updateByte_resn (d : Direction) (s : State) (x : Byte) :
    (s.updateByte d x).1.resn.toNat = (s.resn.toNat + 1) % 16 := by
  have begin_keeps : s.beginBlock.resn = s.resn := by
    obtain ⟨-, hb⟩ | ⟨-, hb⟩ := beginBlock_cases s
    · rw [hb]
    · rw [hb]
  rw [State.updateByte, ← begin_keeps]
  obtain ⟨hn, ha⟩ | ⟨-, ha⟩ := absorb_cases
    (cipherByte d x (x ^^^ byteAt s.beginBlock.ks s.beginBlock.resn.toNat)) s.beginBlock
  · rw [ha, hn]
    rfl
  · rw [ha]
    exact BitVec.toNat_add _ _

/-- RESN counts the bytes modulo the block (R152). -/
theorem updateBytes_resn (d : Direction) (p : List Byte) (s : State) :
    (s.updateBytes d p).1.resn.toNat = (s.resn.toNat + p.length) % 16 := by
  induction p generalizing s with
  | nil => exact (Nat.mod_eq_of_lt s.resn.isLt).symm
  | cons x xs ih =>
    rw [updateBytes_cons, ih, updateByte_resn, List.length_cons]
    omega

/-- The update command of a direction whose `len` is the payload's length (R153, R154). -/
theorem gcmEnc_eq_updateInstr (len : BitVec 48) (p : List Byte) (h : p.length = len.toNat) :
    .gcmEnc len p = updateInstr .enc p := by
  rw [updateInstr, h, BitVec.ofNat_toNat, BitVec.setWidth_eq]

theorem gcmDec_eq_updateInstr (len : BitVec 48) (p : List Byte) (h : p.length = len.toNat) :
    .gcmDec len p = updateInstr .dec p := by
  rw [updateInstr, h, BitVec.ofNat_toNat, BitVec.setWidth_eq]

theorem exec_updateInstr (d : Direction) (p : List Byte) (s : State) :
    exec (updateInstr d p) s = .next (s.update d p) := by
  cases d with
  | enc => rfl
  | dec => rfl

section
variable (d : Direction) (p : List Byte) (s : State)

theorem exec_updateInstr_of_refused
    (h : s.fsm = .uninit ∨ s.fsm = .final ∨ s.dir = some d.opposite) :
    exec (updateInstr d p) s = .next (s.respond .invalidState []) := by
  have not_allowed : ¬ (s.streamOpen ∧ s.directionFree d) := by
    rwa [not_and_or, not_streamOpen_iff, directionFree_iff, not_not, or_assoc]
  rw [exec_updateInstr]
  obtain ⟨-, hu⟩ | ⟨ho, hd, -⟩ | ⟨ho, hd, -⟩ := update_cases d p s
  · rw [hu]
  · exact absurd ⟨ho, hd⟩ not_allowed
  · exact absurd ⟨ho, hd⟩ not_allowed

/-- After the tests of the state and of the direction, an update is the range test of R113. -/
theorem update_of_allowed (ho : s.streamOpen) (hd : s.dir ≠ some d.opposite) :
    s.update d p =
      if ¬ canIssue s.ctr (blocksNeeded s.resn.toNat p.length) then
        s.abortStream.raise .messageTooLong
      else ((s.updateBytes d p).1.finishUpdate d p.length).respond .ok (s.updateBytes d p).2 :=
  (if_neg (not_not_intro ho)).trans (if_neg (not_not_intro ((directionFree_iff d s).mpr hd)))

theorem exec_updateInstr_of_too_long (ho : s.streamOpen) (hd : s.dir ≠ some d.opposite)
    (hr : counterTop < (blockCounter s.ctr).toNat + blocksNeeded s.resn.toNat p.length) :
    exec (updateInstr d p) s = .next (s.abortStream.respond .messageTooLong []) := by
  rw [exec_updateInstr, update_of_allowed d p s ho hd, if_pos (Nat.not_le.mpr hr),
    State.raise_eq_respond]

/-- The bytes of the update write CTR, KS, RES, RESN and ACC; its end writes CTLEN, DIR and FSM. -/
theorem exec_updateInstr_of_in_range (ho : s.streamOpen) (hd : s.dir ≠ some d.opposite)
    (hr : (blockCounter s.ctr).toNat + blocksNeeded s.resn.toNat p.length ≤ counterTop) :
    ∃ (ctr ks res : Block) (resn : BitVec 4) (acc : Block) (out : List Byte),
      s.updateBytes d p =
        ({ s with ctr := ctr, ks := ks, res := res, resn := resn, acc := acc }, out) ∧
      out.length = p.length ∧ resn.toNat = (s.resn.toNat + p.length) % 16 ∧
      exec (updateInstr d p) s = .next (State.respond .ok out (State.finishUpdate d p.length
        { s with ctr := ctr, ks := ks, res := res, resn := resn, acc := acc })) := by
  obtain ⟨ctr, ks, res, resn, acc, hs⟩ := updateBytes_frame d p s
  have count : resn.toNat = (s.resn.toNat + p.length) % 16 := by
    rw [← updateBytes_resn d p s, hs]
  refine ⟨ctr, ks, res, resn, acc, (s.updateBytes d p).2, Prod.ext hs rfl, updateBytes_length d p s,
    count, ?_⟩
  rw [exec_updateInstr, update_of_allowed d p s ho hd, if_neg (not_not_intro hr), hs]

end

/-- Settles O22: GCM_ENC is the update in the direction ENC. -/
theorem gcmEncFollowsItsRule : Obligations.GcmEncFollowsItsRule := by
  intro len p s hlen
  rw [gcmEnc_eq_updateInstr len p hlen, ← hlen]
  exact ⟨exec_updateInstr_of_refused .enc p s, exec_updateInstr_of_too_long .enc p s,
    exec_updateInstr_of_in_range .enc p s⟩

/-- Settles O23: GCM_DEC is the update in the direction DEC. -/
theorem gcmDecFollowsItsRule : Obligations.GcmDecFollowsItsRule := by
  intro len p s hlen
  rw [gcmDec_eq_updateInstr len p hlen, ← hlen]
  exact ⟨exec_updateInstr_of_refused .dec p s, exec_updateInstr_of_too_long .dec p s,
    exec_updateInstr_of_in_range .dec p s⟩

end Sys2Proof.Machine

namespace Sys2Proof.Machine

/-! Beginning a message (spec/43_aead_sequencer.md R151). -/

/-- The round count of a key that fits a packet fits NR, so E runs under the whole schedule. -/
theorem encrypt_loadKey (a : BitVec 8) (key : List Byte) (s : State) (hlen : key.length = a.toNat)
    (b : Block) :
    (s.loadKey a key).encrypt b = encryptBlock (keySchedule key).erk (keySchedule key).nr b := by
  have rounds : (BitVec.ofNat 8 (keySchedule key).nr).toNat = (keySchedule key).nr := by
    rw [BitVec.toNat_ofNat, keySchedule_nr]
    omega
  rw [State.encrypt, State.loadKey_erk, State.loadKey_nr, rounds]

section
variable (a : BitVec 8) (len : BitVec 48) (key : List Byte) (nonce : Nonce) (aad : List Byte)
  (s : State)

theorem exec_gcmInit_of_illegal_length (h : ¬ keyLengthLegal a) :
    exec (.gcmInit a len key nonce aad) s = .next (s.wiped.respond .invalidKeyLength []) := if_pos h

theorem exec_gcmInit_of_legal_length (h : keyLengthLegal a) :
    exec (.gcmInit a len key nonce aad) s =
      .next ((s.wiped.startMessage a len key nonce aad).respond .ok []) :=
  if_neg (not_not_intro h)

end

/-- Settles O20: the two endings of GCM_INIT; the table it writes holds the powers of the subkey. -/
theorem gcmInitFollowsItsRule : Obligations.GcmInitFollowsItsRule := by
  intro a len key nonce aad s hkey _
  refine ⟨exec_gcmInit_of_illegal_length a len key nonce aad s, fun ha => ?_⟩
  have rounds : (keySchedule key).nr = a.toNat / 4 + 6 := by rw [keySchedule_nr, hkey]
  have encrypt := encrypt_loadKey a key s.wiped hkey
  have subkey : gcmSubkey (keySchedule key) = (s.wiped.loadKey a key).encrypt 0 := (encrypt 0).symm
  refine ⟨powerTable s.build.k (gcmSubkey (keySchedule key)), powersHeld_powerTable _ _, ?_⟩
  rw [exec_gcmInit_of_legal_length a len key nonce aad s ha, ← rounds, subkey, ← encrypt,
    ← seedBlock_eq_blockOfBytes, BitVec.ofNat_toNat]
  rfl

end Sys2Proof.Machine

namespace Sys2Proof.Machine

/-! The transition table (spec/43_aead_sequencer.md R150). A command's rule is a chain of tests
before its endings, so the table is followed when each ending follows it. -/

/-- The outcome is an ending of `i` in `s` as the table gives it: one response, FSM by the command
and the status, and a refused cell refused where the operand is legal. -/
def FollowsTable (i : Instr) (s : State) (o : Host.Outcome State Fault Refusal) : Prop :=
  ∃ (t : State) (r : Response), o = .next t ∧ t.outbox = s.outbox ++ [r] ∧
    t.fsm = nextFsm i r.status s.fsm ∧
    (refusedIn i s.fsm s.dir = true → operandLegal s.build i = true → r.status = .invalidState)

namespace FollowsTable

variable {i : Instr} {s : State}

theorem test {c : Prop} [Decidable c] {o o' : Host.Outcome State Fault Refusal}
    (h : c → FollowsTable i s o) (h' : ¬ c → FollowsTable i s o') :
    FollowsTable i s (if c then o else o') := by
  split
  · exact h ‹_›
  · exact h' ‹_›

theorem illegal (h : operandLegal s.build i = false) :
    FollowsTable i s (.next (s.raise .illegalCommand)) :=
  ⟨_, _, rfl, rfl, rfl, fun _ legal => absurd legal (by simp [h])⟩

theorem invalid : FollowsTable i s (.next (s.raise .invalidState)) :=
  ⟨_, _, rfl, rfl, rfl, fun _ _ => rfl⟩

theorem accepted {st : Status} {out : List Byte} {u : State} (h : refusedIn i s.fsm s.dir = false)
    (sent : u.outbox = s.outbox) (fsm : u.fsm = nextFsm i st s.fsm) :
    FollowsTable i s (.next (u.respond st out)) :=
  ⟨u.respond st out, ⟨st, out⟩, rfl, by rw [State.respond_outbox, sent], fsm,
    fun refused => absurd refused (by simp [h])⟩

/-! The rules that several commands share. -/

theorem block {a : BitVec 8} {out : List Byte}
    (ha : operandLegal s.build i = decide (encWidthLegal a))
    (h : refusedIn i s.fsm s.dir = false) (fsm : nextFsm i .ok s.fsm = s.fsm) :
    FollowsTable i s (blockCommand a out s) :=
  test (fun illegal_width => illegal (by rw [ha]; exact decide_eq_false illegal_width)) fun _ =>
    test (fun _ => invalid) fun _ => accepted h rfl fsm.symm

theorem manual {ready : Bool} {ending : State}
    (h : s.manual → FollowsTable i s (.next ending)) :
    FollowsTable i s (manualCommand ready ending s) :=
  test (fun _ => invalid) fun pass => h (not_not.mp (not_or.mp pass).1)

theorem close {a : BitVec 8} {ending : State}
    (ha : operandLegal s.build i = decide (tagLengthLegal a))
    (h : s.streamOpen → FollowsTable i s (.next ending)) :
    FollowsTable i s (closeCommand a ending s) :=
  test (fun illegal_length => illegal (by rw [ha]; exact decide_eq_false illegal_length)) fun _ =>
    test (fun _ => invalid) fun pass => h (not_not.mp pass)

end FollowsTable

/-- An open message is in neither of the states without one. -/
theorem decide_no_message_of_open (s : State) (h : s.streamOpen) :
    decide (s.fsm = .uninit ∨ s.fsm = .final) = false :=
  decide_eq_false fun closed => (not_streamOpen_iff s).mpr closed h

@[simp] theorem updateBytes_outbox (d : Direction) (p : List Byte) (s : State) :
    (s.updateBytes d p).1.outbox = s.outbox := by
  obtain ⟨ctr, ks, res, resn, acc, hs⟩ := updateBytes_frame d p s
  rw [hs]

theorem refusedIn_updateInstr (d : Direction) (p : List Byte) (s : State) (ho : s.streamOpen)
    (hd : s.directionFree d) : refusedIn (updateInstr d p) s.fsm s.dir = false := by
  have cell : refusedIn (updateInstr d p) s.fsm s.dir =
      decide (s.fsm = .uninit ∨ s.fsm = .final ∨ s.fsm = .stream ∧ s.dir = some d.opposite) := by
    cases d with
    | enc => rfl
    | dec => rfl
  rw [directionFree_iff] at hd
  rw [cell]
  refine decide_eq_false ?_
  rintro (h | h | ⟨-, h⟩)
  · exact (not_streamOpen_iff s).mpr (.inl h) ho
  · exact (not_streamOpen_iff s).mpr (.inr h) ho
  · exact hd h

theorem followsTable_updateInstr (d : Direction) (p : List Byte) (s : State) :
    FollowsTable (updateInstr d p) s (exec (updateInstr d p) s) := by
  have after_ok : nextFsm (updateInstr d p) .ok s.fsm = .stream := by
    cases d with
    | enc => rfl
    | dec => rfl
  have after_abort : nextFsm (updateInstr d p) .messageTooLong s.fsm = .final := by
    cases d with
    | enc => rfl
    | dec => rfl
  rw [exec_updateInstr]
  obtain ⟨-, hu⟩ | ⟨ho, hd, -, hu⟩ | ⟨ho, hd, -, hu⟩ := update_cases d p s
  · rw [hu]
    exact .invalid
  · rw [hu]
    exact .accepted (refusedIn_updateInstr d p s ho hd) rfl after_abort.symm
  · rw [hu]
    exact .accepted (refusedIn_updateInstr d p s ho hd) (updateBytes_outbox d p s) after_ok.symm

theorem followsTable_gcmVerify (a : BitVec 8) (tag : List Byte) (s : State) :
    FollowsTable (.gcmVerify a tag) s (exec (.gcmVerify a tag) s) := by
  rw [exec_gcmVerify]
  refine .close rfl fun ho => .accepted (decide_no_message_of_open s ho) rfl ?_
  rw [verdict]
  split
  · rfl
  · rfl

theorem exec_followsTable (i : Instr) (s : State) (hi : i.WellFormed) :
    FollowsTable i s (exec i s) := by
  have manual_cell (h : s.manual) : decide (s.fsm ≠ .uninit) = false := by simp [h]
  cases i with
  | kexp a key =>
    refine .test (fun _ => .invalid) fun pass => ?_
    have hm : s.fsm = .uninit := not_not.mp pass
    exact .test (fun _ => .accepted (manual_cell hm) rfl hm)
      fun _ => .accepted (manual_cell hm) rfl rfl
  | encb a blocks => rw [exec_encb]; exact .block rfl rfl rfl
  | decb a blocks => rw [exec_decb]; exact .block rfl rfl rfl
  | cinit nonce =>
    exact .test (fun _ => .invalid) fun pass => .accepted (manual_cell (not_not.mp pass)) rfl rfl
  | cnext a =>
    refine .test (fun illegal_count => .illegal (decide_eq_false illegal_count)) fun _ =>
      .test (fun _ => .invalid) fun pass => ?_
    have cell := manual_cell (not_not.mp (not_or.mp pass).1)
    exact .test (fun _ => .accepted cell rfl rfl) fun _ => .accepted cell rfl rfl
  | ginit => rw [exec_ginit]; exact .manual fun hm => .accepted (manual_cell hm) rfl rfl
  | gfold block => rw [exec_gfold]; exact .manual fun hm => .accepted (manual_cell hm) rfl rfl
  | gfoldn a blocks =>
    refine .test (fun illegal_count => .illegal (decide_eq_false illegal_count)) fun _ => ?_
    exact .manual fun hm => .accepted (manual_cell hm) rfl rfl
  | gfinal block => rw [exec_gfinal]; exact .manual fun hm => .accepted (manual_cell hm) rfl rfl
  | gcmInit a len key nonce aad =>
    exact .test (fun _ => .accepted rfl rfl rfl) fun _ => .accepted rfl rfl rfl
  | gcmEnc len p => rw [gcmEnc_eq_updateInstr len p hi]; exact followsTable_updateInstr .enc p s
  | gcmDec len p => rw [gcmDec_eq_updateInstr len p hi]; exact followsTable_updateInstr .dec p s
  | gcmFinal a =>
    rw [exec_gcmFinal]
    exact .close rfl fun ho => .accepted (decide_no_message_of_open s ho) rfl rfl
  | gcmVerify a tag => exact followsTable_gcmVerify a tag s
  | rdst => exact ⟨_, _, rfl, rfl, rfl, fun refused => absurd refused Bool.false_ne_true⟩
  | zeroize => exact .accepted rfl rfl rfl

/-- Settles O53: every command follows the table, and the table keeps FSM on InvalidState. -/
theorem sequencerFollowsItsTable : Obligations.SequencerFollowsItsTable := by
  intro i s hi
  obtain ⟨t, r, ht, sent, fsm, refused⟩ := exec_followsTable i s hi
  have kept : r.status = .invalidState → t.fsm = s.fsm := by
    intro status
    rw [fsm, status]
    rfl
  exact ⟨t, r, ht, sent, fsm, refused, kept⟩

end Sys2Proof.Machine

namespace Sys2Proof.Machine

/-! The status word (spec/44_system.md R171). -/

/-- Every field as a bit string: a field is what stands in the word once the fields below it are
dropped. RESN is a nibble, so its byte begins with four zeros. -/
theorem statusWord_fields (s : State) :
    (statusWord s).extractLsb' 56 8 = statusCode s.lastst ∧
    (statusWord s).extractLsb' 54 2 = fsmCode s.fsm ∧
    (statusWord s).extractLsb' 52 2 = dirCode s.dir ∧
    (statusWord s).extractLsb' 51 1 = flagBit s.kv ∧
    (statusWord s).extractLsb' 50 1 = flagBit s.cv ∧
    (statusWord s).extractLsb' 49 1 = flagBit s.gv ∧
    (statusWord s).extractLsb' 48 1 = 0#1 ∧
    (statusWord s).extractLsb' 40 8 = s.klen ∧
    (statusWord s).extractLsb' 32 8 = s.nr ∧
    (statusWord s).extractLsb' 24 8 = 0#4 ++ s.resn ∧
    (statusWord s).extractLsb' 16 8 = BitVec.ofNat 8 s.build.k ∧
    (statusWord s).extractLsb' 8 8 = tierCode s.build.tier ∧
    (statusWord s).extractLsb' 0 8 = 0#8 := by
  simp (disch := decide) only [statusWord, BitVec.extractLsb'_append_eq_of_le,
    BitVec.extractLsb'_append_eq_right, BitVec.extractLsb'_eq_self, Nat.sub_add_eq, Nat.reduceSub,
    and_self]

theorem getLsbD_of_extractLsb'_eq_flagBit {n i : Nat} {w : BitVec n} {b : Bool}
    (h : w.extractLsb' i 1 = flagBit b) : w.getLsbD i = b := by
  have bit := congrArg (BitVec.getLsbD · 0) h
  simpa [flagBit] using bit

theorem toNat_zero_append {m n : Nat} (x : BitVec n) : (0#m ++ x).toNat = x.toNat := by
  rw [BitVec.toNat_append, BitVec.toNat_ofNat, Nat.zero_mod, Nat.zero_shiftLeft, Nat.zero_or]

/-- Settles O29: the fields stand at their bits; a flag is a field of one bit, the zeros before RESN
leave its value, and a K of at most 32 fits its byte. -/
theorem statusWordFieldsAreWhereTabled : Obligations.StatusWordFieldsAreWhereTabled := by
  refine ⟨rfl, rfl, rfl, rfl, fun s hk => ?_⟩
  obtain ⟨lastst, fsm, dir, kv, cv, gv, reserved, klen, nr, resn, k, tier, low⟩ :=
    statusWord_fields s
  have resn_value : ((statusWord s).extractLsb' 24 8).toNat = s.resn.toNat := by
    rw [resn, toNat_zero_append]
  have k_fits : s.build.k < 2 ^ 8 := by omega
  have k_value : ((statusWord s).extractLsb' 16 8).toNat = s.build.k := by
    rw [k, BitVec.toNat_ofNat, Nat.mod_eq_of_lt k_fits]
  exact ⟨lastst, fsm, dir, getLsbD_of_extractLsb'_eq_flagBit kv,
    getLsbD_of_extractLsb'_eq_flagBit cv, getLsbD_of_extractLsb'_eq_flagBit gv,
    getLsbD_of_extractLsb'_eq_flagBit reserved, klen, nr, resn_value, k_value, tier, low⟩

/-! The system commands (R170, R172). -/

theorem exec_rdst (s : State) : exec .rdst s = .next (s.send .ok s.statusBytes) := rfl

theorem exec_zeroize (s : State) : exec .zeroize s = .next (s.wiped.respond .ok []) := rfl

/-- Settles O26: sending the status bytes writes the response port only. -/
theorem rdstFollowsItsRule : Obligations.RdstFollowsItsRule := exec_rdst

/-- Settles O27: the wiped state holds the reset value in every element but LASTST, and the response
writes LASTST with OK. -/
theorem zeroizeFollowsItsRule : Obligations.ZeroizeFollowsItsRule := exec_zeroize

end Sys2Proof.Machine

namespace Sys2Proof.Machine

/-! The causes of InvalidState (spec/60_exceptions.md R185). A command's rule tests its operand,
then the state, and nothing after the two tests ends with their statuses. -/

/-- The outcomes of `i` in `s` by the first two causes of R190: the endings of the two tests, or a
response of another status after both have passed. -/
inductive EndsByCause (i : Instr) (s : State) : Host.Outcome State Fault Refusal → Prop
  | illegal (cause : operandLegal s.build i = false) :
    EndsByCause i s (.next (s.respond .illegalCommand []))
  | refused (legal : operandLegal s.build i = true) (cause : invalidStateCause s i = true) :
    EndsByCause i s (.next (s.respond .invalidState []))
  | passed (legal : operandLegal s.build i = true) (free : invalidStateCause s i = false)
    (t : State) (r : Response) (sent : t.outbox = s.outbox ++ [r])
    (other : r.status ∉ [Status.illegalCommand, .invalidState]) : EndsByCause i s (.next t)

namespace EndsByCause

variable {i : Instr} {s : State} {o o' : Host.Outcome State Fault Refusal}

theorem operandTest {c : Prop} [Decidable c]
    (legal : operandLegal s.build i = decide c)
    (h : operandLegal s.build i = true → EndsByCause i s o) :
    EndsByCause i s (if ¬ c then .next (s.raise .illegalCommand) else o) := by
  by_cases hc : c
  · rw [if_neg (not_not_intro hc)]
    exact h (legal.trans (decide_eq_true hc))
  · rw [if_pos hc]
    exact .illegal (legal.trans (decide_eq_false hc))

theorem stateTest {c : Prop} [Decidable c] (legal : operandLegal s.build i = true)
    (cause : c ↔ invalidStateCause s i = true)
    (h : invalidStateCause s i = false → EndsByCause i s o) :
    EndsByCause i s (if c then .next (s.raise .invalidState) else o) := by
  by_cases hc : c
  · rw [if_pos hc]
    exact .refused legal (cause.mp hc)
  · rw [if_neg hc]
    exact h (Bool.eq_false_iff.mpr fun hs => hc (cause.mpr hs))

theorem either {c : Prop} [Decidable c] (h : EndsByCause i s o) (h' : EndsByCause i s o') :
    EndsByCause i s (if c then o else o') := by
  split
  · exact h
  · exact h'

theorem responded {st : Status} {out : List Byte} {u : State}
    (legal : operandLegal s.build i = true) (free : invalidStateCause s i = false)
    (sent : u.outbox = s.outbox)
    (other : st ∉ [Status.illegalCommand, .invalidState] := by decide) :
    EndsByCause i s (.next (u.respond st out)) :=
  .passed legal free _ ⟨st, out⟩ (by rw [State.respond_outbox, sent]) other

/-! What the causes say of an outcome: the one they select, and no other. -/

theorem eq_illegal (e : EndsByCause i s o) (cause : operandLegal s.build i = false) :
    o = .next (s.respond .illegalCommand []) := by
  cases e with
  | illegal => rfl
  | refused legal => exact absurd legal (by simp [cause])
  | passed legal => exact absurd legal (by simp [cause])

theorem eq_refused (e : EndsByCause i s o) (legal : operandLegal s.build i = true)
    (cause : invalidStateCause s i = true) : o = .next (s.respond .invalidState []) := by
  cases e with
  | illegal illegal => exact absurd legal (by simp [illegal])
  | refused => rfl
  | passed _ free => exact absurd cause (by simp [free])

theorem sends_other (e : EndsByCause i s o) (legal : operandLegal s.build i = true)
    (free : invalidStateCause s i = false) :
    ∃ (t : State) (r : Response), o = .next t ∧ t.outbox = s.outbox ++ [r] ∧
      r.status ∉ [Status.illegalCommand, .invalidState] := by
  cases e with
  | illegal illegal => exact absurd legal (by simp [illegal])
  | refused _ cause => exact absurd cause (by simp [free])
  | passed _ _ t r sent other => exact ⟨t, r, rfl, sent, other⟩

theorem sends_legal (e : EndsByCause i s o) (legal : operandLegal s.build i = true) :
    ∃ (t : State) (r : Response), o = .next t ∧ t.outbox = s.outbox ++ [r] ∧
      r.status ≠ .illegalCommand := by
  cases e with
  | illegal illegal => exact absurd legal (by simp [illegal])
  | refused => exact ⟨_, _, rfl, State.respond_outbox .., by simp⟩
  | passed _ _ t r sent other => exact ⟨t, r, rfl, sent, fun status => other (by simp [status])⟩

/-! The rules that several commands share. -/

theorem block {a : BitVec 8} {out : List Byte}
    (legal : operandLegal s.build i = decide (encWidthLegal a))
    (cause : invalidStateCause s i = !s.kv) : EndsByCause i s (blockCommand a out s) :=
  operandTest legal fun legal =>
    stateTest legal (by rw [cause, Bool.not_eq_true']) fun free => responded legal free rfl

theorem manual {ready : Bool} {out : List Byte} {u : State}
    (legal : operandLegal s.build i = true)
    (cause : invalidStateCause s i = (decide (s.fsm ≠ .uninit) || !ready))
    (sent : u.outbox = s.outbox) : EndsByCause i s (manualCommand ready (u.respond .ok out) s) :=
  stateTest legal (by simp [cause, State.manual]) fun free => responded legal free sent

theorem close {a : BitVec 8} {st : Status} {out : List Byte} {u : State}
    (legal : operandLegal s.build i = decide (tagLengthLegal a))
    (cause : invalidStateCause s i = decide (s.fsm = .uninit ∨ s.fsm = .final))
    (sent : u.outbox = s.outbox)
    (other : st ∉ [Status.illegalCommand, .invalidState] := by decide) :
    EndsByCause i s (closeCommand a (u.respond st out) s) :=
  operandTest legal fun legal =>
    stateTest legal (by rw [cause, decide_eq_true_iff, not_streamOpen_iff]) fun free =>
      responded legal free sent other

theorem update {d : Direction} {p : List Byte} (legal : operandLegal s.build i = true)
    (cause : invalidStateCause s i =
      (decide (s.fsm = .uninit ∨ s.fsm = .final) || decide (s.dir = some d.opposite))) :
    EndsByCause i s (.next (s.update d p)) := by
  have cause_iff : invalidStateCause s i = true ↔ ¬ s.streamOpen ∨ ¬ s.directionFree d := by
    rw [cause, Bool.or_eq_true, decide_eq_true_iff, decide_eq_true_iff, not_streamOpen_iff,
      directionFree_iff, not_not]
  have free (ho : s.streamOpen) (hd : s.directionFree d) : invalidStateCause s i = false :=
    Bool.eq_false_iff.mpr fun hc => (cause_iff.mp hc).elim (· ho) (· hd)
  obtain ⟨hr, hu⟩ | ⟨ho, hd, -, hu⟩ | ⟨ho, hd, -, hu⟩ := update_cases d p s
  · rw [hu]
    exact .refused legal (cause_iff.mpr hr)
  · rw [hu]
    exact responded legal (free ho hd) rfl
  · rw [hu]
    exact responded legal (free ho hd) (updateBytes_outbox d p s)

end EndsByCause

theorem verdict_notMem_tests (a : BitVec 8) (tag : List Byte) (s : State) :
    verdict a tag s ∉ [Status.illegalCommand, .invalidState] := by
  rw [verdict]
  split
  · decide
  · decide

theorem exec_endsByCause (i : Instr) (s : State) : EndsByCause i s (exec i s) := by
  cases i with
  | kexp a key =>
    exact .stateTest rfl decide_eq_true_iff.symm fun free =>
      .either (.responded rfl free rfl) (.responded rfl free rfl)
  | encb a blocks => rw [exec_encb]; exact .block rfl rfl
  | decb a blocks => rw [exec_decb]; exact .block rfl rfl
  | cinit nonce =>
    exact .stateTest rfl decide_eq_true_iff.symm fun free => .responded rfl free rfl
  | cnext a =>
    refine .operandTest rfl fun legal =>
      .stateTest legal (by simp [invalidStateCause]) fun free => ?_
    exact .either (.responded legal free rfl) (.responded legal free rfl)
  | ginit => rw [exec_ginit]; exact .manual rfl rfl rfl
  | gfold block => rw [exec_gfold]; exact .manual rfl rfl rfl
  | gfoldn a blocks => exact .operandTest rfl fun legal => .manual legal rfl rfl
  | gfinal block => rw [exec_gfinal]; exact .manual rfl rfl rfl
  | gcmInit a len key nonce aad =>
    exact .either (.responded rfl rfl rfl) (.responded rfl rfl rfl)
  | gcmEnc len p => exact .update rfl rfl
  | gcmDec len p => exact .update rfl rfl
  | gcmFinal a => rw [exec_gcmFinal]; exact .close rfl rfl rfl
  | gcmVerify a tag =>
    rw [exec_gcmVerify]
    exact .close rfl rfl rfl (verdict_notMem_tests a tag s)
  | rdst => exact .passed rfl rfl _ ⟨.ok, s.statusBytes⟩ rfl (by simp)
  | zeroize => exact .responded rfl rfl rfl

/-- Settles O51: with a legal operand the state test alone decides between its own ending and those
of another status. -/
theorem invalidStateCausesAreComplete : Obligations.InvalidStateCausesAreComplete := by
  intro i s legal
  refine ⟨(exec_endsByCause i s).eq_refused legal, fun free => ?_⟩
  obtain ⟨t, r, ht, sent, other⟩ := (exec_endsByCause i s).sends_other legal free
  exact ⟨t, r, ht, sent, fun status => other (by simp [status])⟩

end Sys2Proof.Machine

namespace Sys2Proof.Machine

/-! The causes of IllegalCommand (spec/60_exceptions.md R182): (a) is the opcode map, (b) and (c)
the zero fields of the formats, (d) to (g) the legal operands of the commands. -/

/-- Causes (b) and (c): a field the command does not use is not zero. -/
def fieldCause (op a len : Nat) : Bool :=
  (decide (len ≠ 0) && !(decide (op ∈ [0x30, 0x31, 0x32])))
    || (decide (a ≠ 0) && decide (op ∈ [0x20, 0xF0, 0xFF, 0x10, 0x21, 0x23, 0x31, 0x32]))

/-- Causes (d) to (g): the small operand is outside the command's legal set. -/
def operandCause (k op a : Nat) : Bool :=
  (decide (op ∈ [0x02, 0x03]) && !(decide (a ∈ [1, 2, 4, 8, 16, 32])))
    || (decide (op = 0x11) && decide (32 < a))
    || (decide (op = 0x22) && decide (a = 0 ∨ k < a))
    || (decide (op ∈ [0x33, 0x34]) && decide (a = 0 ∨ 16 < a))

/-- Cause (a) names every value the opcode map does not. -/
theorem decide_tabled_eq_isSome_opcodeOf : ∀ op : BitVec 8,
    decide (op.toNat ∈ [0x01, 0x02, 0x03, 0x10, 0x11, 0x20, 0x21, 0x22, 0x23, 0x30, 0x31, 0x32,
      0x33, 0x34, 0xF0, 0xFF]) = (opcodeOf op).isSome := by
  decide +kernel

theorem illegalHeader_eq (k : Nat) (h : Header) :
    illegalHeader k h = (!(opcodeOf (hdrOp h)).isSome
      || fieldCause (hdrOp h).toNat (hdrA h).toNat (hdrLen h).toNat
      || operandCause k (hdrOp h).toNat (hdrA h).toNat) := by
  simp only [illegalHeader, decide_tabled_eq_isSome_opcodeOf, fieldCause, operandCause,
    Bool.or_assoc]

theorem uses_len_iff (o : Opcode) :
    (opNumber o).toNat ∈ [0x30, 0x31, 0x32] ↔ formatOf o ∈ [Format.L, .AL] := by
  cases o <;> decide

theorem no_operand_iff (o : Opcode) :
    (opNumber o).toNat ∈ [0x20, 0xF0, 0xFF, 0x10, 0x21, 0x23, 0x31, 0x32] ↔
      formatOf o ∈ [Format.Z, .F, .L] := by
  cases o <;> decide

theorem fieldCause_opNumber (o : Opcode) (a : BitVec 8) (len : BitVec 48) :
    fieldCause (opNumber o).toNat a.toNat len.toNat = !fieldsZero (formatOf o) a len := by
  have zero_eq {n : Nat} (x : BitVec n) : (x == 0#n) = decide (x.toNat = 0) :=
    (beq_eq_decide x 0#n).trans (decide_eq_decide.mpr BitVec.toNat_eq)
  simp only [fieldCause, uses_len_iff, no_operand_iff]
  cases formatOf o with
  | Z => simp [fieldsZero, zero_eq, Bool.or_comm]
  | F => simp [fieldsZero, zero_eq, Bool.or_comm]
  | A => simp [fieldsZero, zero_eq]
  | L => simp [fieldsZero, zero_eq]
  | AL => simp [fieldsZero]

theorem operandCause_opNumber (b : Build) (o : Opcode) (a : BitVec 8) (len : BitVec 48)
    (p : List Byte) :
    operandCause b.k (opNumber o).toNat a.toNat = !operandLegal b (assemble o a len p) := by
  rw [Bool.eq_iff_iff]
  cases o with
  | encb => simp [operandCause, opNumber, operandLegal, assemble, encWidthLegal, encWidths]
  | decb => simp [operandCause, opNumber, operandLegal, assemble, encWidthLegal, encWidths]
  | cnext => simp [operandCause, opNumber, operandLegal, assemble]
  | gfoldn => simp [operandCause, opNumber, operandLegal, assemble]
  | gcmFinal => simp [operandCause, opNumber, operandLegal, assemble]
  | gcmVerify => simp [operandCause, opNumber, operandLegal, assemble]
  | kexp | cinit | ginit | gfold | gfinal | gcmInit | gcmEnc | gcmDec | rdst | zeroize => rfl

theorem hdrOp_of_opcodeOf (h : Header) (o : Opcode) (ho : opcodeOf (hdrOp h) = some o) :
    hdrOp h = opNumber o :=
  (eq_of_beq (List.find?_some (p := fun o => opNumber o == hdrOp h) ho)).symm

theorem illegalHeader_of_reserved (k : Nat) (h : Header) (ho : opcodeOf (hdrOp h) = none) :
    illegalHeader k h = true := by
  simp [illegalHeader_eq, ho]

/-- Under a row of the table the causes are the two tests after that of the opcode (R63 steps 2
and 3). -/
theorem illegalHeader_of_opcode (b : Build) (h : Header) (o : Opcode) (p : List Byte)
    (ho : opcodeOf (hdrOp h) = some o) :
    illegalHeader b.k h = (!fieldsZero (formatOf o) (hdrA h) (hdrLen h)
      || !operandLegal b (assemble o (hdrA h) (hdrLen h) p)) := by
  rw [illegalHeader_eq, ho, hdrOp_of_opcodeOf h o ho, fieldCause_opNumber,
    operandCause_opNumber b o _ (hdrLen h) p]
  rfl

/-! A step on a whole packet, by the causes its header meets. -/

/-- RDST has no operand to be illegal (R62). -/
theorem ne_rdst_of_illegal_operand {b : Build} {o : Opcode} {a : BitVec 8} {len : BitVec 48}
    {p : List Byte} (h : operandLegal b (assemble o a len p) = false) :
    opNumber o ≠ opNumber .rdst := by
  intro same
  have rdst : o = .rdst := Option.some.inj (by rw [← opcodeOf_opNumber, same, opcodeOf_opNumber])
  rw [rdst] at h
  cases h

theorem raiseIllegal_eq (op : BitVec 8) (s : State) :
    s.raiseIllegal op =
      { s with lastst := if op = opNumber .rdst then s.lastst else .illegalCommand
               outbox := s.outbox ++ [{ status := .illegalCommand, out := [] }] } := by
  obtain ⟨hop, hs⟩ | ⟨hop, hs⟩ := raiseIllegal_cases op s
  · rw [hs, if_pos hop, State.send]
  · rw [hs, if_neg hop, State.respond]

section
variable (s : State) (h : Header) (p : List Byte) (rest : List HostEvent)

/-- Whether the decoder or the command's own operand test finds the cause, the ending is one. -/
theorem step_of_illegalHeader (hi : s.inbox = .packet (beBytes 8 h.toNat ++ p) :: rest)
    (hp : p.length = paylen h) (cause : illegalHeader s.build.k h = true) :
    step s = .next (State.raiseIllegal (hdrOp h) { s with inbox := rest }) := by
  have decoded := decode_headerBytes_append h p
  obtain ⟨-, hd⟩ | ⟨o, ho, hz, hd⟩ | ⟨o, ho, -, hd⟩ := decodeHeader_cases h p hp
  · exact step_of_decode_error s _ rest _ hi (decoded.trans hd)
  · have illegal : operandLegal s.build (assemble o (hdrA h) (hdrLen h) p) = false := by
      simpa [illegalHeader_of_opcode s.build h o p ho, hz] using cause
    rw [step_of_decode_ok s _ rest _ hi (decoded.trans hd), hdrOp_of_opcodeOf h o ho,
      raiseIllegal_of_ne_rdst _ _ (ne_rdst_of_illegal_operand illegal)]
    exact (exec_endsByCause _ _).eq_illegal illegal
  · rw [step_of_decode_error s _ rest _ hi (decoded.trans hd), hdrOp_of_opcodeOf h o ho]
    rfl

/-- A header that meets no cause is run as a command, whose operand is legal. -/
theorem step_of_legalHeader (hi : s.inbox = .packet (beBytes 8 h.toNat ++ p) :: rest)
    (hp : p.length = paylen h) (free : illegalHeader s.build.k h = false) :
    ∃ i, operandLegal s.build i = true ∧ step s = exec i { s with inbox := rest } := by
  have decoded := decode_headerBytes_append h p
  obtain ⟨ho, -⟩ | ⟨o, ho, hz, hd⟩ | ⟨o, ho, hz, -⟩ := decodeHeader_cases h p hp
  · exact absurd free (by simp [illegalHeader_of_reserved _ h ho])
  · exact ⟨_, by simpa [illegalHeader_of_opcode s.build h o p ho, hz] using free,
      step_of_decode_ok s _ rest _ hi (decoded.trans hd)⟩
  · exact absurd free (by simp [illegalHeader_of_opcode s.build h o p ho, hz])

end

/-- Settles O6: the causes are what the decoder and the operand test refuse, with one ending; a
command that passes both ends by its state test or after it. -/
theorem illegalCommandCausesAreComplete : Obligations.IllegalCommandCausesAreComplete := by
  intro s h p rest hi hp
  refine ⟨fun cause => ?_, fun free => ?_⟩
  · rw [step_of_illegalHeader s h p rest hi hp cause, raiseIllegal_eq]
    rfl
  · obtain ⟨i, legal, hs⟩ := step_of_legalHeader s h p rest hi hp free
    rw [hs]
    exact (exec_endsByCause i { s with inbox := rest }).sends_legal legal

end Sys2Proof.Machine

namespace Sys2Proof.Machine

/-! The codec (spec/30_encoding.md R61 to R65). A header is its three fields, and a payload is cut
into operands and joined again without loss. -/

/-- A header is its three fields side by side (R61). -/
theorem mkHeader_fields (h : Header) : mkHeader (hdrOp h) (hdrA h) (hdrLen h) = h := by
  have upper : hdrOp h ++ hdrA h = h.extractLsb' 48 16 :=
    BitVec.extractLsb'_append_extractLsb'_eq_extractLsb' (by decide)
  rw [mkHeader, upper]
  exact (BitVec.extractLsb'_append_extractLsb'_eq_extractLsb' (by decide)).trans
    BitVec.extractLsb'_eq_self

theorem bytesOfBlocks_chunkBlocks (n : Nat) (s : List Byte) (h : s.length = 16 * n) :
    bytesOfBlocks (chunkBlocks n s) = s := by
  induction n generalizing s with
  | zero => exact (List.length_eq_zero_iff.mp h).symm
  | succ n ih =>
    have first : (s.take 16).length = 16 := by rw [List.length_take]; omega
    rw [chunkBlocks, bytesOfBlocks_cons, padBlock_of_length _ first,
      blockBytes_blockOfBytes _ first, ih (s.drop 16) (by rw [List.length_drop]; omega),
      List.take_append_drop]

/-- A word that was read from `n` bytes is written as those bytes (R42). -/
theorem beBytes_ofNat_beNat {n w : Nat} (s : List Byte) (h : s.length = n) (hw : 256 ^ n = 2 ^ w) :
    beBytes n (BitVec.ofNat w (beNat s)).toNat = s := by
  have bound := beNat_lt s
  rw [h, hw] at bound
  rw [BitVec.toNat_ofNat, Nat.mod_eq_of_lt bound, ← h, beBytes_beNat]

@[simp] theorem ofNat_beNat_nonceBytes (nonce : Nonce) :
    BitVec.ofNat 96 (beNat (beBytes 12 nonce.toNat)) = nonce := by
  apply BitVec.eq_of_toNat_eq
  have := nonce.isLt
  simp only [beNat_beBytes, BitVec.toNat_ofNat]
  omega

/-! Decoding what was encoded. -/

theorem payloadOf_length (i : Instr) (hi : i.WellFormed) :
    (payloadOf i).length = paylen (headerOf i) := by
  cases i with
  | kexp a key => exact Laws.PayloadLength.kexp a key hi
  | encb a blocks => exact Laws.PayloadLength.encb a blocks hi
  | decb a blocks => exact Laws.PayloadLength.decb a blocks hi
  | cinit nonce => exact Laws.PayloadLength.cinit nonce hi
  | cnext a => exact Laws.PayloadLength.cnext a hi
  | ginit => exact Laws.PayloadLength.ginit hi
  | gfold block => exact Laws.PayloadLength.gfold block hi
  | gfoldn a blocks => exact Laws.PayloadLength.gfoldn a blocks hi
  | gfinal block => exact Laws.PayloadLength.gfinal block hi
  | gcmInit a len key nonce aad => exact Laws.PayloadLength.gcmInit a len key nonce aad hi
  | gcmEnc len p => exact Laws.PayloadLength.gcmEnc len p hi
  | gcmDec len p => exact Laws.PayloadLength.gcmDec len p hi
  | gcmFinal a => exact Laws.PayloadLength.gcmFinal a hi
  | gcmVerify a tag => exact Laws.PayloadLength.gcmVerify a tag hi
  | rdst => exact Laws.PayloadLength.rdst hi
  | zeroize => exact Laws.PayloadLength.zeroize hi

/-- The encoder writes zero where the format asks for it (R62). -/
theorem fieldsZero_headerOf (i : Instr) :
    fieldsZero (formatOf (instrOpcode i)) (hdrA (headerOf i)) (hdrLen (headerOf i)) = true := by
  cases i <;> simp [headerOf, instrOpcode, formatOf, fieldsZero]

/-- The operands are read back from the header's fields and the payload (R64). -/
theorem assemble_headerOf (i : Instr) (hi : i.WellFormed) :
    assemble (instrOpcode i) (hdrA (headerOf i)) (hdrLen (headerOf i)) (payloadOf i) = i := by
  have blocks_back {a : BitVec 8} {blocks : List Block} (h : blocks.length = a.toNat) :
      chunkBlocks a.toNat (bytesOfBlocks blocks) = blocks := by
    rw [← h, chunkBlocks_bytesOfBlocks]
  cases i with
  | encb a blocks => simp [headerOf, instrOpcode, payloadOf, assemble, blocks_back hi]
  | decb a blocks => simp [headerOf, instrOpcode, payloadOf, assemble, blocks_back hi]
  | gfoldn a blocks => simp [headerOf, instrOpcode, payloadOf, assemble, blocks_back hi]
  | gcmInit a len key nonce aad =>
    obtain ⟨hkey, -⟩ := hi
    have key_part : (key ++ (beBytes 12 nonce.toNat ++ aad)).take a.toNat = key :=
      List.take_left' hkey
    have rest : (key ++ (beBytes 12 nonce.toNat ++ aad)).drop a.toNat =
        beBytes 12 nonce.toNat ++ aad := List.drop_left' hkey
    have nonce_part : (beBytes 12 nonce.toNat ++ aad).take 12 = beBytes 12 nonce.toNat :=
      List.take_left' (beBytes_length 12 _)
    have aad_part : (beBytes 12 nonce.toNat ++ aad).drop 12 = aad :=
      List.drop_left' (beBytes_length 12 _)
    simp only [headerOf, instrOpcode, payloadOf, assemble, hdrA_mkHeader, hdrLen_mkHeader,
      List.append_assoc, ← List.drop_drop, key_part, rest, nonce_part, aad_part,
      ofNat_beNat_nonceBytes]
  | _ => simp [headerOf, instrOpcode, payloadOf, assemble]

theorem decode_encode (i : Instr) (hi : i.WellFormed) : decode (encode i) = .ok i := by
  rw [encode, decode_headerBytes_append, decodeHeader,
    if_neg (not_not_intro (payloadOf_length i hi)),
    opcodeOf_headerOf]
  simp only [fieldsZero_headerOf, if_true, assemble_headerOf i hi]

/-- Settles O1: the header is read back whole and gives the row, the fields and the payload's
length; the operands are read back from them. -/
theorem decodeOfEncodedInstruction : Obligations.DecodeOfEncodedInstruction := decode_encode

/-! Encoding what was decoded. -/

section
variable (o : Opcode) (a : BitVec 8) (len : BitVec 48) (p : List Byte)

theorem instrOpcode_assemble : instrOpcode (assemble o a len p) = o := by
  cases o <;> rfl

theorem headerOf_assemble (hz : fieldsZero (formatOf o) a len = true) :
    headerOf (assemble o a len p) = mkHeader (opNumber o) a len := by
  cases o <;> simp [fieldsZero, formatOf] at hz <;> simp [assemble, headerOf, opNumber, hz]

theorem assemble_wellFormed (hp : p.length = opPaylen o a len) :
    (assemble o a len p).WellFormed := by
  cases o with
  | kexp | gcmEnc | gcmDec | gcmVerify => exact hp
  | encb | decb | gfoldn => exact chunkBlocks_length _ _
  | gcmInit =>
    have hp : p.length = a.toNat + 12 + len.toNat := hp
    exact ⟨by rw [List.length_take]; omega, by rw [List.length_drop]; omega⟩
  | cinit | cnext | ginit | gfold | gfinal | gcmFinal | rdst | zeroize => trivial

theorem payloadOf_assemble (hp : p.length = opPaylen o a len) :
    payloadOf (assemble o a len p) = p := by
  cases o with
  | kexp | gcmEnc | gcmDec | gcmVerify => rfl
  | encb | decb | gfoldn => exact bytesOfBlocks_chunkBlocks _ _ hp
  | cinit => exact beBytes_ofNat_beNat p hp (by decide)
  | gfold | gfinal => exact blockBytes_blockOfBytes p hp
  | gcmInit =>
    have hp : p.length = a.toNat + 12 + len.toNat := hp
    have nonce_length : ((p.drop a.toNat).take 12).length = 12 := by
      rw [List.length_take, List.length_drop]; omega
    simp only [assemble, payloadOf,
      beBytes_ofNat_beNat _ nonce_length (show 256 ^ 12 = 2 ^ 96 by decide),
      ← List.drop_drop, List.append_assoc, List.take_append_drop]
  | cnext | ginit | gcmFinal | rdst | zeroize => exact (List.length_eq_zero_iff.mp hp).symm

end

/-- What a decoded packet is: its payload has the header's length, the header names a row whose zero
fields are zero, and the instruction is that row's (R63, R64). -/
theorem decodeHeader_eq_ok_iff (h : Header) (p : List Byte) (i : Instr) :
    decodeHeader h p = .ok i ↔ p.length = paylen h ∧ ∃ o, opcodeOf (hdrOp h) = some o ∧
      fieldsZero (formatOf o) (hdrA h) (hdrLen h) = true ∧
      assemble o (hdrA h) (hdrLen h) p = i := by
  by_cases hp : p.length = paylen h
  · obtain ⟨ho, hd⟩ | ⟨o, ho, hz, hd⟩ | ⟨o, ho, hz, hd⟩ := decodeHeader_cases h p hp
    · simp [hd, ho]
    · simp [hd, ho, hz, hp]
    · simp [hd, ho, hz]
  · simp [decodeHeader, hp]

theorem paylen_of_opcode (h : Header) (o : Opcode) (ho : opcodeOf (hdrOp h) = some o) :
    paylen h = opPaylen o (hdrA h) (hdrLen h) := by
  simp [paylen, ho]

theorem decodeHeader_encodes_back (h : Header) (p : List Byte) (i : Instr)
    (hd : decodeHeader h p = .ok i) :
    i.WellFormed ∧ headerOf i = h ∧ payloadOf i = p := by
  obtain ⟨hp, o, ho, hz, rfl⟩ := (decodeHeader_eq_ok_iff h p i).mp hd
  rw [paylen_of_opcode h o ho] at hp
  refine ⟨assemble_wellFormed o _ _ p hp, ?_, payloadOf_assemble o _ _ p hp⟩
  rw [headerOf_assemble o _ _ p hz, ← hdrOp_of_opcodeOf h o ho, mkHeader_fields]

theorem decode_encodes_back (bytes : List Byte) (i : Instr) (hd : decode bytes = .ok i) :
    i.WellFormed ∧ encode i = bytes := by
  by_cases short : bytes.length < 8
  · simp [decode, short] at hd
  · rw [decode, if_neg short] at hd
    obtain ⟨hi, header, payload⟩ := decodeHeader_encodes_back _ _ i hd
    have header_length : (bytes.take 8).length = 8 := by rw [List.length_take]; omega
    refine ⟨hi, ?_⟩
    rw [encode, header, payload, beBytes_ofNat_beNat _ header_length (by decide),
      List.take_append_drop]

/-- Settles O2: the decoder tests the length and every field the format fixes, so the header and
the payload the encoder writes are those that were read. -/
theorem decodedInstructionEncodesBack : Obligations.DecodedInstructionEncodesBack :=
  decode_encodes_back

end Sys2Proof.Machine

namespace Sys2Proof.Machine

/-! The rows of the opcode map (spec/30_encoding.md R65). -/

theorem mkHeader_and (op a op' a' : BitVec 8) (len len' : BitVec 48) :
    mkHeader op a len &&& mkHeader op' a' len' =
      mkHeader (op &&& op') (a &&& a') (len &&& len') := by
  rw [mkHeader, mkHeader, BitVec.and_append, BitVec.and_append, mkHeader]

theorem mkHeader_inj {op a op' a' : BitVec 8} {len len' : BitVec 48} :
    mkHeader op a len = mkHeader op' a' len' ↔ op = op' ∧ a = a' ∧ len = len' := by
  refine ⟨fun h => ⟨?_, ?_, ?_⟩, fun ⟨hop, ha, hlen⟩ => by rw [hop, ha, hlen]⟩
  · simpa using congrArg hdrOp h
  · simpa using congrArg hdrA h
  · simpa using congrArg hdrLen h

/-- The bits of `a` a format fixes (R62). -/
def maskA : Format → BitVec 8
  | .Z | .F | .L => BitVec.allOnes 8
  | .A | .AL => 0

/-- The bits of `len` a format fixes (R62). -/
def maskLen : Format → BitVec 48
  | .Z | .F | .A => BitVec.allOnes 48
  | .L | .AL => 0

theorem rowMask_eq (o : Opcode) :
    rowMask o = mkHeader (BitVec.allOnes 8) (maskA (formatOf o)) (maskLen (formatOf o)) := by
  cases o <;> decide

theorem masked_eq_zero_iff (f : Format) (a : BitVec 8) (len : BitVec 48) :
    (a &&& maskA f = 0 ∧ len &&& maskLen f = 0) ↔ fieldsZero f a len = true := by
  cases f <;> simp [maskA, maskLen, fieldsZero, -BitVec.reduceAllOnes]

/-- A header selects a row when its opcode is the row's and the fields that must be zero are: the
two tests the decoder makes (R63, R65). -/
theorem selects_iff (h : Header) (o : Opcode) :
    selects h o ↔ opcodeOf (hdrOp h) = some o ∧
      fieldsZero (formatOf o) (hdrA h) (hdrLen h) = true := by
  have opcode : hdrOp h = opNumber o ↔ opcodeOf (hdrOp h) = some o :=
    ⟨fun heq => by rw [heq, opcodeOf_opNumber], hdrOp_of_opcodeOf h o⟩
  rw [← opcode, ← masked_eq_zero_iff, selects, ← mkHeader_fields h, rowMask_eq, mkHeader_and,
    rowMatch, mkHeader_inj, BitVec.and_allOnes, mkHeader_fields]

theorem selects_unique (h : Header) (o o' : Opcode) (ho : selects h o) (ho' : selects h o') :
    o = o' := by
  have row := ((selects_iff h o).mp ho).1
  have row' := ((selects_iff h o').mp ho').1
  exact Option.some.inj (row.symm.trans row')

theorem selects_iff_decode (h : Header) (p : List Byte) (o : Opcode) (hp : p.length = paylen h) :
    selects h o ↔ ∃ i, decode (beBytes 8 h.toNat ++ p) = .ok i ∧ instrOpcode i = o := by
  simp only [selects_iff, decode_headerBytes_append, decodeHeader_eq_ok_iff, hp, true_and]
  constructor
  · rintro ⟨ho, hz⟩
    exact ⟨_, ⟨o, ho, hz, rfl⟩, instrOpcode_assemble _ _ _ _⟩
  · rintro ⟨_, ⟨o', ho, hz, rfl⟩, rfl⟩
    rw [instrOpcode_assemble]
    exact ⟨ho, hz⟩

/-- Settles O3: the table is that of the model row by row; selection is the decoder's two tests, of
which the first gives at most one row. -/
theorem opcodeRowsSelectAndDoNotOverlap : Obligations.OpcodeRowsSelectAndDoNotOverlap :=
  ⟨by decide, selects_unique, selects_iff_decode⟩

/-- Settles O4: the five packets are read by the decoder, opcode, fields and payload. -/
theorem headersWrittenFromTheTableDecode : Obligations.HeadersWrittenFromTheTableDecode := by
  unfold Obligations.HeadersWrittenFromTheTableDecode
  decide +kernel

/-! What a step finds at the command port (spec/20_memory.md R53). -/

theorem decode_of_wrong_length (h : Header) (p : List Byte) (hp : p.length ≠ paylen h) :
    decode (beBytes 8 h.toNat ++ p) = .error .payloadLength := by
  rw [decode_headerBytes_append, decodeHeader, if_pos hp]

theorem decode_of_short (bytes : List Byte) (h : bytes.length < 8) :
    decode bytes = .error .shortHeader := if_pos h

/-- Settles O7: both decode errors are refused, and a wait is the state itself. -/
theorem wrongLengthRefusedAndWaitChangesNothing :
    Obligations.WrongLengthRefusedAndWaitChangesNothing := by
  refine ⟨fun s h p rest hi hp => ?_, fun s bytes rest hi short => ?_, fun s hi => ?_⟩
  · rw [step_of_decode_error s _ rest _ hi (decode_of_wrong_length h p hp), endUndecoded]
  · rw [step_of_decode_error s _ rest _ hi (decode_of_short bytes short), endUndecoded]
  · rw [step, fetch_nil s hi]

/-- Settles O8: the step of a packet that decodes is `exec` with the packet taken. -/
theorem stepRunsDecodedInstruction : Obligations.StepRunsDecodedInstruction :=
  step_of_decode_ok

/-- Settles O9: the reset input is fetched first, and `resetInput` is the reset state of the build
with both ports kept. -/
theorem resetInputClearsEveryElement : Obligations.ResetInputClearsEveryElement := by
  intro s rest hi
  rw [step, fetch_reset s rest hi]
  rfl

/-! Beats (spec/20_memory.md R46). A short block is its bytes and then zeros. -/

theorem blockBytes_padBlock (s : List Byte) (h : s.length ≤ 16) :
    blockBytes (padBlock s) = s ++ List.replicate (16 - s.length) 0 :=
  blockBytes_blockOfBytes _ (by rw [List.length_append, List.length_replicate]; omega)

theorem byteAt_padBlock (s : List Byte) (i : Nat) (h : s.length ≤ 16) (hi : i < 16) :
    byteAt (padBlock s) i = s[i]?.getD 0 := by
  have entry := blockBytes_getElem? (padBlock s) i hi
  rw [blockBytes_padBlock s h] at entry
  by_cases inside : i < s.length
  · rw [List.getElem?_append_left inside] at entry
    rw [entry, Option.getD_some]
  · rw [List.getElem?_append_right (by omega), List.getElem?_replicate_of_lt (by omega)] at entry
    rw [List.getElem?_eq_none (by omega), ← Option.some.inj entry, Option.getD_none]

/-- Beyond the first beat the beats are those of what the first leaves. -/
theorem beatsOf_of_ne_nil (s : List Byte) (h : s ≠ []) :
    beatsOf s =
      { data := padBlock (s.take 16), count := min 16 s.length } :: beatsOf (s.drop 16) := by
  have pos := List.length_pos_iff.mpr h
  have count : blockCount s.length = blockCount (s.drop 16).length + 1 := by
    rw [List.length_drop, blockCount, blockCount]; omega
  rw [beatsOf, count, beatsFrom, beatsOf]

@[simp] theorem beatsOf_nil : beatsOf [] = [] := rfl

theorem beatsOf_eq_nil_iff (s : List Byte) : beatsOf s = [] ↔ s = [] := by
  refine ⟨fun h => ?_, fun h => by rw [h, beatsOf_nil]⟩
  by_contra hs
  simp [beatsOf_of_ne_nil s hs] at h

/-- Byte strings taken sixteen bytes at a time. -/
theorem chunks_induction {motive : List Byte → Prop} (nil : motive [])
    (chunk : ∀ s, s ≠ [] → motive (s.drop 16) → motive s) (s : List Byte) : motive s := by
  induction hn : s.length using Nat.strong_induction_on generalizing s with
  | _ n ih =>
    by_cases hs : s = []
    · exact hs ▸ nil
    · have pos := List.length_pos_iff.mpr hs
      exact chunk s hs (ih _ (by rw [List.length_drop]; omega) _ rfl)

theorem bytesOfBeats_beatsOf (s : List Byte) : bytesOfBeats (beatsOf s) = s := by
  induction s using chunks_induction with
  | nil => rfl
  | chunk s hs ih =>
    have counted : (s.take 16).length = min 16 s.length := List.length_take
    have bytes : (blockBytes (padBlock (s.take 16))).take (min 16 s.length) = s.take 16 := by
      rw [blockBytes_padBlock _ (by omega), List.take_left' counted]
    rw [beatsOf_of_ne_nil s hs, bytesOfBeats, List.flatMap_cons, bytes]
    exact (congrArg (s.take 16 ++ ·) ih).trans (List.take_append_drop 16 s)

/-- A beat that counts at least one byte and is zero beyond its count (R46). -/
def Beat.Padded (b : Beat) : Prop :=
  1 ≤ b.count ∧ b.count ≤ 16 ∧ ∀ i, b.count ≤ i → i < 16 → byteAt b.data i = 0

theorem beatsOf_padded (s : List Byte) : ∀ b ∈ beatsOf s, b.Padded := by
  induction s using chunks_induction with
  | nil => simp
  | chunk s hs ih =>
    have pos := List.length_pos_iff.mpr hs
    have counted : (s.take 16).length = min 16 s.length := List.length_take
    rw [beatsOf_of_ne_nil s hs, List.forall_mem_cons]
    refine ⟨⟨by simp only; omega, by simp only; omega, fun i hi h16 => ?_⟩, ih⟩
    have beyond : (s.take 16).length ≤ i := counted ▸ hi
    rw [byteAt_padBlock _ i (by omega) h16, List.getElem?_eq_none beyond, Option.getD_none]

theorem beatsOf_full_before_last (s : List Byte) (i : Nat) (b : Beat)
    (hb : (beatsOf s)[i]? = some b) (more : i + 1 < (beatsOf s).length) : b.count = 16 := by
  induction s using chunks_induction generalizing i with
  | nil => simp at hb
  | chunk s hs ih =>
    rw [beatsOf_of_ne_nil s hs] at hb more
    cases i with
    | zero =>
      have rest : s.drop 16 ≠ [] := by
        rw [Ne, ← beatsOf_eq_nil_iff]
        exact List.length_pos_iff.mp (by simpa using more)
      have long : 16 < s.length := by
        simpa using List.length_pos_iff.mpr rest
      rw [← Option.some.inj hb]
      exact min_eq_left long.le
    | succ i => exact ih i (by simpa using hb) (by simpa using more)

/-- Settles O60: beat by beat, sixteen bytes at a time. -/
theorem beatsCarryTheByteString : Obligations.BeatsCarryTheByteString := fun bs =>
  ⟨bytesOfBeats_beatsOf bs, beatsOf_padded bs, beatsOf_full_before_last bs⟩

end Sys2Proof.Machine

namespace Sys2Proof.Machine

/-! The field behind unit GA (spec/42_galois.md R121 to R141). Words are read as polynomials over
GF(2), blocks as elements of GF(2)[x] modulo x^128 + x^7 + x^2 + x + 1; the reading of a block is
injective, so a law of the field is a law of the blocks. -/

section
open Polynomial

/-- A word as a polynomial: bit `i` is the coefficient of x^i (R124). -/
noncomputable def polyOf {n : Nat} (v : BitVec n) : (ZMod 2)[X] :=
  ∑ i ∈ Finset.range n, if v.getLsbD i then X ^ i else 0

theorem coeff_polyOf {n : Nat} (v : BitVec n) (i : Nat) :
    (polyOf v).coeff i = if v.getLsbD i then 1 else 0 := by
  have term (j : Nat) : (if v.getLsbD j then X ^ j else 0 : (ZMod 2)[X]).coeff i =
      if i = j then (if v.getLsbD i then 1 else 0) else 0 := by
    by_cases hij : i = j
    · subst hij
      split <;> simp
    · split <;> simp [coeff_X_pow, hij]
  simp only [polyOf, finsetSum_coeff, term, Finset.sum_ite_eq, Finset.mem_range]
  by_cases hi : i < n
  · rw [if_pos hi]
  · rw [if_neg hi, BitVec.getLsbD_of_ge v i (Nat.not_lt.mp hi)]
    rfl

theorem polyOf_injective {n : Nat} {v w : BitVec n} (h : polyOf v = polyOf w) : v = w := by
  apply BitVec.eq_of_getLsbD_eq
  intro i _
  have coefficient : (polyOf v).coeff i = (polyOf w).coeff i := by rw [h]
  rw [coeff_polyOf, coeff_polyOf] at coefficient
  cases hv : v.getLsbD i <;> cases hw : w.getLsbD i <;> simp_all

theorem degree_polyOf_lt {n : Nat} (v : BitVec n) : (polyOf v).degree < n := by
  rw [degree_lt_iff_coeff_zero]
  intro i hi
  rw [coeff_polyOf, BitVec.getLsbD_of_ge v i hi]
  rfl

@[simp] theorem polyOf_zero (n : Nat) : polyOf (0 : BitVec n) = 0 := by
  ext i
  rw [coeff_polyOf]
  simp

@[simp] theorem polyOf_xor {n : Nat} (v w : BitVec n) : polyOf (v ^^^ w) = polyOf v + polyOf w := by
  ext i
  rw [coeff_add, coeff_polyOf, coeff_polyOf, coeff_polyOf, BitVec.getLsbD_xor]
  cases v.getLsbD i <;> cases w.getLsbD i <;> decide

/-- Widening and shifting without loss is multiplication by a power of x. -/
theorem polyOf_shiftLeft {n m : Nat} (v : BitVec n) (i : Nat) (h : n + i ≤ m) :
    polyOf (v.setWidth m <<< i) = polyOf v * X ^ i := by
  ext j
  rw [coeff_mul_X_pow', coeff_polyOf, coeff_polyOf, BitVec.getLsbD_shiftLeft,
    BitVec.getLsbD_setWidth]
  by_cases hj : j < i
  · simp [hj, Nat.not_le.mpr hj]
  · by_cases hm : j < m
    · have inside : j - i < m := by omega
      simp [hj, hm, inside, Nat.not_lt.mp hj]
    · have beyond : n ≤ j - i := by omega
      simp [hm, BitVec.getLsbD_of_ge v _ beyond]

theorem polyOf_setWidth {n m : Nat} (v : BitVec n) (h : n ≤ m) :
    polyOf (v.setWidth m) = polyOf v := by
  simpa using polyOf_shiftLeft v 0 h

/-- Gathering by exclusive or is summation, under any reading that takes the one to the other. -/
theorem foldl_xor_eq_sum {n : Nat} {R : Type*} [AddCommMonoid R] (φ : BitVec n → R)
    (hφ : ∀ x y, φ (x ^^^ y) = φ x + φ y) (c : Nat → Bool) (f : Nat → BitVec n) (k : Nat)
    (z : BitVec n) :
    φ ((List.range k).foldl (fun z i => if c i then z ^^^ f i else z) z) =
      φ z + ∑ i ∈ Finset.range k, if c i then φ (f i) else 0 := by
  induction k with
  | zero => simp
  | succ k ih =>
    rw [List.range_succ, List.foldl_append, Finset.sum_range_succ, ← add_assoc, ← ih]
    simp only [List.foldl_cons, List.foldl_nil]
    split
    · exact hφ _ _
    · exact (add_zero _).symm

/-- The carry-less product is the product of the polynomials (R124). -/
theorem polyOf_clmul64 (a b : BitVec 64) : polyOf (clmul64 a b) = polyOf a * polyOf b := by
  rw [clmul64, foldl_xor_eq_sum polyOf polyOf_xor]
  rw [show polyOf b = ∑ i ∈ Finset.range 64, if b.getLsbD i then X ^ i else 0 from rfl,
    Finset.mul_sum, polyOf_zero, zero_add]
  apply Finset.sum_congr rfl
  intro i hi
  have fits : 64 + i ≤ 128 := by have := Finset.mem_range.mp hi; omega
  rw [mul_ite, mul_zero, polyOf_shiftLeft a i fits]

/-! ### The field -/

/-- x^128 as a polynomial of lower degree (R121). -/
noncomputable def gfTail : (ZMod 2)[X] := X ^ 7 + X ^ 2 + X + 1

/-- The polynomial of the field (R121). -/
@[irreducible] noncomputable def gfModulus : (ZMod 2)[X] := X ^ 128 + gfTail

theorem degree_gfTail : gfTail.degree = 7 := by
  rw [gfTail]
  compute_degree!

theorem degree_gfTail_lt : gfTail.degree < (128 : Nat) := by
  rw [degree_gfTail]
  decide

theorem gfModulus_eq : gfModulus = X ^ 128 + gfTail := by
  unfold gfModulus
  rfl

theorem degree_X_pow_add_tail (n : Nat) (p : (ZMod 2)[X]) (h : p.degree < n) :
    (X ^ n + p).degree = (n : WithBot Nat) := by
  rw [degree_add_eq_left_of_degree_lt (by rwa [degree_X_pow]), degree_X_pow]

theorem degree_gfModulus : gfModulus.degree = (128 : Nat) :=
  (congrArg degree gfModulus_eq).trans (degree_X_pow_add_tail 128 gfTail degree_gfTail_lt)

/-- The field of R121, as a ring. -/
abbrev GF := AdjoinRoot gfModulus

/-- The element a polynomial stands for. -/
noncomputable def residue : (ZMod 2)[X] →+* GF := AdjoinRoot.mk gfModulus

theorem residue_eq_iff (p q : (ZMod 2)[X]) : residue p = residue q ↔ gfModulus ∣ p - q :=
  AdjoinRoot.mk_eq_mk

theorem residue_X_pow_128 : residue (X ^ 128) = residue gfTail := by
  rw [residue_eq_iff, CharTwo.sub_eq_add, gfModulus_eq]

/-- Below the degree of the modulus a polynomial is known by its residue. -/
theorem eq_of_residue_eq (n : Nat) (hn : gfModulus.degree = n) {p q : (ZMod 2)[X]}
    (hp : p.degree < n) (hq : q.degree < n) (h : residue p = residue q) : p = q := by
  have small : (p - q).degree < gfModulus.degree := by
    rw [hn]
    exact (degree_sub_le p q).trans_lt (max_lt hp hq)
  exact sub_eq_zero.mp (eq_zero_of_dvd_of_degree_lt ((residue_eq_iff p q).mp h) small)

theorem residue_polyOf_injective {v w : BitVec 128}
    (h : residue (polyOf v) = residue (polyOf w)) : v = w :=
  polyOf_injective
    (eq_of_residue_eq 128 degree_gfModulus (degree_polyOf_lt v) (degree_polyOf_lt w) h)

end

end Sys2Proof.Machine

namespace Sys2Proof.Machine

/-! The reading of blocks as field elements, and the laws of the field product (spec/42_galois.md
R121 to R123, R131). -/

section
open Polynomial

/-- The element of the field a block spells: byte 0's top bit is the coefficient of 1 (R121). -/
noncomputable def gf (v : Block) : GF := residue (polyOf (bitrev128 v))

theorem getLsbD_bitrev128 (v : Block) (i : Nat) :
    (bitrev128 v).getLsbD i = (decide (i < 128) && v.getLsbD (127 - i)) := by
  rw [bitrev128, BitVec.getLsbD_reverse, BitVec.getMsbD]

@[simp] theorem bitrev128_bitrev128 (v : Block) : bitrev128 (bitrev128 v) = v :=
  BitVec.reverse_reverse_eq

theorem bitrev128_xor (x y : Block) : bitrev128 (x ^^^ y) = bitrev128 x ^^^ bitrev128 y := by
  apply BitVec.eq_of_getLsbD_eq
  intro i hi
  simp only [getLsbD_bitrev128, BitVec.getLsbD_xor, hi, decide_true, Bool.true_and]

theorem gf_injective {x y : Block} (h : gf x = gf y) : x = y := by
  rw [← bitrev128_bitrev128 x, residue_polyOf_injective h, bitrev128_bitrev128]

theorem gf_bitrev128 (v : BitVec 128) : gf (bitrev128 v) = residue (polyOf v) := by
  rw [gf, bitrev128_bitrev128]

@[simp] theorem gf_xor (x y : Block) : gf (x ^^^ y) = gf x + gf y := by
  rw [gf, bitrev128_xor, polyOf_xor, map_add, gf, gf]

@[simp] theorem gf_zero : gf 0 = 0 := by
  rw [gf, show bitrev128 0 = 0 by decide +kernel, polyOf_zero, map_zero]

/-- The class of x. -/
noncomputable def gfX : GF := residue X

theorem gf_eq_sum (x : Block) :
    gf x = ∑ i ∈ Finset.range 128, if x.getLsbD (127 - i) then gfX ^ i else 0 := by
  rw [gf, polyOf, map_sum]
  apply Finset.sum_congr rfl
  intro i hi
  rw [getLsbD_bitrev128, decide_eq_true (Finset.mem_range.mp hi), Bool.true_and]
  split
  · exact map_pow residue X i
  · exact map_zero residue

theorem polyOf_one {n : Nat} (hn : 1 ≤ n) : polyOf (1#n) = 1 := by
  have narrow : polyOf (1#1) = 1 := by simp [polyOf]
  have widen : (1#1).setWidth n = 1#n := by
    apply BitVec.eq_of_toNat_eq
    simp
  rw [← widen, polyOf_setWidth _ hn, narrow]

@[simp] theorem gf_gfOne : gf gfOne = 1 := by
  rw [gf, show bitrev128 gfOne = 1#128 by decide +kernel, polyOf_one (by decide), map_one]

/-- 0x87 is the low part of the modulus in the bit order of the datapath (R128). -/
theorem polyOf_0x87 : polyOf 0x87#8 = gfTail := by
  simp only [polyOf, gfTail, Finset.sum_range_succ, Finset.sum_range_zero]
  simp
  ring

theorem polyOf_0x87_setWidth {n : Nat} (hn : 8 ≤ n) : polyOf (0x87#8 |>.setWidth n) = gfTail :=
  (polyOf_setWidth _ hn).trans polyOf_0x87

/-- The constant R is x^128 reduced (R122). -/
theorem gf_gfR : gf gfR = residue gfTail := by
  rw [gf, show bitrev128 gfR = (0x87#8).setWidth 128 by decide +kernel,
    polyOf_0x87_setWidth (by decide)]

/-- Shifting right is multiplying by x, but for the bit that falls off, which stood for x^127. -/
theorem polyOf_bitrev128_mul_X (v : Block) :
    polyOf (bitrev128 v) * X =
      polyOf (bitrev128 (v >>> 1)) + if v.getLsbD 0 then X ^ 128 else 0 := by
  ext i
  have overflow : (if v.getLsbD 0 then X ^ 128 else 0 : (ZMod 2)[X]).coeff i =
      if i = 128 then (if v.getLsbD 0 then 1 else 0) else 0 := by
    split
    · rw [coeff_X_pow]
    · rw [coeff_zero, ite_self]
  rw [coeff_add, coeff_polyOf, overflow, getLsbD_bitrev128, BitVec.getLsbD_ushiftRight]
  cases i with
  | zero => simp
  | succ i =>
    rw [coeff_mul_X, coeff_polyOf, getLsbD_bitrev128]
    obtain hi | rfl | hi := lt_trichotomy i 127
    · have entry : 1 + (127 - (i + 1)) = 127 - i := by omega
      have low : i < 128 ∧ i + 1 < 128 ∧ i + 1 ≠ 128 := by omega
      simp only [entry, low, decide_true, Bool.true_and, if_false, add_zero]
    · simp
    · have high : ¬ i < 128 ∧ ¬ i + 1 < 128 ∧ i + 1 ≠ 128 := by omega
      simp only [high, decide_false, Bool.false_and, if_false, add_zero]

theorem gf_gfShift (v : Block) : gf (gfShift v) = gfX * gf v := by
  have shifted : gfX * gf v =
      gf (v >>> 1) + residue (if v.getLsbD 0 then X ^ 128 else 0) := by
    rw [mul_comm, gfX, gf, ← map_mul, polyOf_bitrev128_mul_X, map_add, gf]
  rw [shifted, gfShift]
  split
  · rw [gf_xor, gf_gfR, residue_X_pow_128]
  · rw [map_zero, add_zero]

/-- After `n` steps of the reference multiplication the pair holds the sum of the first `n` terms
and y times x^n (R122). -/
theorem gf_gfStep_run (x y : Block) (n : Nat) :
    gf ((List.range n).foldl (gfStep x) (0, y)).1 =
        (∑ i ∈ Finset.range n, if x.getLsbD (127 - i) then gfX ^ i else 0) * gf y ∧
      gf ((List.range n).foldl (gfStep x) (0, y)).2 = gfX ^ n * gf y := by
  induction n with
  | zero =>
    refine ⟨?_, by rw [pow_zero, one_mul]; rfl⟩
    rw [Finset.sum_range_zero, zero_mul]
    exact gf_zero
  | succ n ih =>
    obtain ⟨sum, power⟩ := ih
    rw [List.range_succ, List.foldl_append, List.foldl_cons, List.foldl_nil, Finset.sum_range_succ,
      add_mul, ← sum]
    refine ⟨?_, by rw [gfStep, gf_gfShift, power, pow_succ', mul_assoc]⟩
    rw [gfStep]
    simp only
    split
    · rw [gf_xor, power]
    · rw [zero_mul, add_zero]

/-- The reference multiplication is the product of the field (R122). -/
@[simp] theorem gf_gfmul (x y : Block) : gf (gfmul x y) = gf x * gf y := by
  rw [gfmul, (gf_gfStep_run x y 128).1, ← gf_eq_sum]

/-- Settles O38: each law is a law of the field, and blocks with the same element are the same. -/
theorem fieldProductLaws : Obligations.FieldProductLaws := by
  refine ⟨fun x y => gf_injective ?_, fun x y z => gf_injective ?_, fun x y z => gf_injective ?_,
    fun y => gf_injective ?_, fun y => gf_injective ?_⟩
  · simp only [gf_gfmul, mul_comm]
  · simp only [gf_gfmul, mul_assoc]
  · simp only [gf_gfmul, gf_xor, add_mul]
  · simp only [gf_gfmul, gf_zero, zero_mul]
  · simp only [gf_gfmul, gf_gfOne, one_mul]

@[simp] theorem gf_gfPow (h : Block) (n : Nat) : gf (gfPow h n) = gf h ^ n := by
  induction n with
  | zero => rw [gfPow, gf_gfOne, pow_zero]
  | succ n ih =>
    cases n with
    | zero => rw [gfPow, pow_one]
    | succ n => rw [gfPow_succ h (n + 1) (by omega), gf_gfmul, ih, ← pow_succ]

/-! ### The datapath multiplication (R124 to R129) -/

/-- What three partial products stand for before the reduction (R127). -/
theorem polyOf_combine (p : Partials) :
    polyOf (combine p) =
      polyOf p.hi * X ^ 128 + (polyOf p.mid + polyOf p.hi + polyOf p.lo) * X ^ 64
        + polyOf p.lo := by
  rw [combine, polyOf_xor, polyOf_xor, polyOf_shiftLeft _ _ (by omega),
    polyOf_shiftLeft _ _ (by omega), polyOf_setWidth _ (by omega), polyOf_xor, polyOf_xor]

theorem polyOf_combine_zero : polyOf (combine Partials.zero) = 0 := by
  have zero : polyOf (0 : BitVec 128) = 0 := polyOf_zero 128
  simp only [polyOf_combine, Partials.zero, zero]
  ring

theorem polyOf_combine_add (p q : Partials) :
    polyOf (combine (p.add q)) = polyOf (combine p) + polyOf (combine q) := by
  simp only [polyOf_combine, Partials.add, polyOf_xor]
  ring

/-- A word cut at bit `m`, none of its bits standing above the two parts. -/
theorem polyOf_cut {n : Nat} (z : BitVec n) (m k : Nat)
    (h : ∀ i, m + k ≤ i → z.getLsbD i = false) :
    polyOf z = polyOf (z.extractLsb' m k) * X ^ m + polyOf (z.extractLsb' 0 m) := by
  ext i
  rw [coeff_add, coeff_mul_X_pow', coeff_polyOf, coeff_polyOf, coeff_polyOf,
    BitVec.getLsbD_extractLsb', BitVec.getLsbD_extractLsb']
  by_cases low : i < m
  · simp [low, Nat.not_le.mpr low]
  · have entry : m + (i - m) = i := by omega
    by_cases inside : i - m < k
    · simp [low, Nat.not_lt.mp low, inside, entry]
    · simp [low, inside, h i (by omega)]

theorem polyOf_halves (a : BitVec 128) :
    polyOf a = polyOf (a.extractLsb' 64 64) * X ^ 64 + polyOf (a.extractLsb' 0 64) :=
  polyOf_cut a 64 64 fun i hi => BitVec.getLsbD_of_ge a i hi

/-- Karatsuba's identity over GF(2), where the middle product less the outer ones is the cross
term (R126, R127). -/
theorem polyOf_combine_kara (a b : BitVec 128) :
    polyOf (combine (kara a b)) = polyOf a * polyOf b := by
  have two : (2 : (ZMod 2)[X]) = 0 := CharTwo.two_eq_zero
  simp only [polyOf_combine, kara, polyOf_clmul64, polyOf_xor]
  rw [polyOf_halves a, polyOf_halves b]
  generalize polyOf (a.extractLsb' 64 64) = a1
  generalize polyOf (a.extractLsb' 0 64) = a0
  generalize polyOf (b.extractLsb' 64 64) = b1
  generalize polyOf (b.extractLsb' 0 64) = b0
  linear_combination (a1 * b1 + a0 * b0) * X ^ 64 * two

/-- One round of the reduction: the part above x^128 comes back times the low part of the
modulus. -/
theorem residue_mul_X_pow_128 (p : (ZMod 2)[X]) :
    residue (p * X ^ 128) = residue (p * gfTail) := by
  rw [map_mul, residue_X_pow_128, map_mul]

theorem polyOf_clmul64_0x87 (a : BitVec 64) : polyOf (clmul64 a 0x87#64) = polyOf a * gfTail := by
  rw [polyOf_clmul64]
  exact congrArg (polyOf a * ·) (polyOf_0x87_setWidth (n := 64) (by decide))

/-- The first round of the reduction, which folds the top 64 bits back (R128). -/
def reduceTop (z : BitVec 256) : BitVec 256 :=
  (z.extractLsb' 0 192).setWidth 256 ^^^
    ((clmul64 (z.extractLsb' 192 64) 0x87#64).setWidth 256 <<< 64)

theorem reduce256_eq (z : BitVec 256) :
    reduce256 z = (reduceTop z).extractLsb' 0 128 ^^^
      clmul64 ((reduceTop z).extractLsb' 128 64) 0x87#64 := rfl

theorem getLsbD_reduceTop (z : BitVec 256) (i : Nat) (hi : 128 + 64 ≤ i) :
    (reduceTop z).getLsbD i = false := by
  have high : ¬ i < 192 ∧ 128 ≤ i - 64 := by omega
  rw [reduceTop, BitVec.getLsbD_xor, BitVec.getLsbD_setWidth, BitVec.getLsbD_extractLsb',
    BitVec.getLsbD_shiftLeft, BitVec.getLsbD_setWidth, BitVec.getLsbD_of_ge _ (i - 64) high.2]
  simp [high.1]

theorem residue_reduceTop (z : BitVec 256) :
    residue (polyOf (reduceTop z)) = residue (polyOf z) := by
  have top := residue_mul_X_pow_128 (polyOf (z.extractLsb' 192 64) * X ^ 64)
  rw [mul_assoc, ← pow_add] at top
  rw [polyOf_cut z 192 64 fun i hi => BitVec.getLsbD_of_ge z i hi, map_add, top, reduceTop,
    polyOf_xor, polyOf_setWidth _ (by omega), polyOf_shiftLeft _ _ (by omega),
    polyOf_clmul64_0x87, ← map_add]
  exact congrArg residue (by ring)

/-- The two rounds leave the element as it is (R128). -/
theorem residue_reduce256 (z : BitVec 256) :
    residue (polyOf (reduce256 z)) = residue (polyOf z) := by
  rw [← residue_reduceTop, polyOf_cut (reduceTop z) 128 64 (getLsbD_reduceTop z), map_add,
    residue_mul_X_pow_128, reduce256_eq, polyOf_xor, polyOf_clmul64_0x87, map_add, add_comm]

/-- The block of a reduced product holds the element the product stands for. -/
theorem gf_bitrev128_reduce256 (p : Partials) :
    gf (bitrev128 (reduce256 (combine p))) = residue (polyOf (combine p)) := by
  rw [gf_bitrev128, residue_reduce256]

theorem residue_kara (x y : Block) :
    residue (polyOf (combine (kara (bitrev128 x) (bitrev128 y)))) = gf x * gf y := by
  rw [polyOf_combine_kara, map_mul, gf, gf]

/-- Settles O39: both products are the product of the field. -/
theorem datapathProductIsTheReference : Obligations.DatapathProductIsTheReference := by
  intro x y
  apply gf_injective
  rw [gfmulDp, gf_bitrev128_reduce256, residue_kara, gf_gfmul]

/-! ### Folds (R131, R137 to R141) -/

/-- The sum of the blocks of a window, each times the power of H that counts the blocks from it to
the newest (R134, R137). -/
noncomputable def windowSum (h : GF) : List Block → GF
  | [] => 0
  | b :: bs => gf b * h ^ (bs.length + 1) + windowSum h bs

/-- Folds one by one, in closed form (R134). -/
theorem gf_foldBlocks (h acc : Block) (bs : List Block) :
    gf (foldBlocks h acc bs) = gf acc * gf h ^ bs.length + windowSum (gf h) bs := by
  induction bs generalizing acc with
  | nil => simp [foldBlocks, windowSum]
  | cons b bs ih =>
    have step : foldBlocks h acc (b :: bs) = foldBlocks h (fold h acc b) bs := rfl
    rw [step, ih, fold, gf_gfmul, gf_xor, windowSum, List.length_cons]
    ring

theorem foldBlocks_eq_foldl (h acc : Block) (bs : List Block) :
    foldBlocks h acc bs = bs.foldl (fun acc b => gfmul (acc ^^^ b) h) acc := rfl

/-- The partial products of a window, added up part by part, stand for the window's sum (R137). -/
theorem residue_aggParts (k : Nat) (table : List Block) (h : Block) (held : powersHeld k table h)
    (bs : List Block) (hk : bs.length ≤ k) (p : Partials) :
    residue (polyOf (combine (aggParts table bs p))) =
      residue (polyOf (combine p)) + windowSum (gf h) bs := by
  obtain ⟨-, entries⟩ := held
  induction bs generalizing p with
  | nil => rw [aggParts, windowSum, add_zero]
  | cons b bs ih =>
    rw [List.length_cons] at hk
    rw [aggParts, ih (by omega), polyOf_combine_add, map_add, residue_kara,
      entries (bs.length + 1) (by omega) hk, gf_gfPow, windowSum, add_assoc]

theorem windowSum_enterAcc (h : GF) (acc : Block) (bs : List Block) (hne : bs ≠ []) :
    windowSum h (enterAcc acc bs) = gf acc * h ^ bs.length + windowSum h bs := by
  cases bs with
  | nil => contradiction
  | cons b bs =>
    rw [enterAcc, windowSum, windowSum, gf_xor, List.length_cons]
    ring

theorem enterAcc_length (acc : Block) (bs : List Block) : (enterAcc acc bs).length = bs.length := by
  cases bs <;> rfl

theorem foldAgg_eq_foldBlocks (k : Nat) (table : List Block) (h acc : Block) (bs : List Block)
    (held : powersHeld k table h) (hne : bs ≠ []) (hk : bs.length ≤ k) :
    foldAgg table acc bs = foldBlocks h acc bs := by
  apply gf_injective
  rw [foldAgg, gf_bitrev128_reduce256, aggPartials,
    residue_aggParts k table h held _ ((enterAcc_length acc bs).trans_le hk), polyOf_combine_zero,
    map_zero, zero_add, windowSum_enterAcc _ _ _ hne, gf_foldBlocks]

/-- Settles O40: both stand for the accumulator times H^n plus the window's sum. -/
theorem aggregatedFoldIsSequential : Obligations.AggregatedFoldIsSequential :=
  fun k table h acc bs held pos hk =>
    foldAgg_eq_foldBlocks k table h acc bs held (List.length_pos_iff.mp pos) hk

theorem windowSum_eq_sum (h : GF) (bs : List Block) :
    windowSum h bs =
      ∑ i ∈ Finset.range bs.length, gf (bs[i]?.getD 0) * h ^ (bs.length - i) := by
  induction bs with
  | nil => simp [windowSum]
  | cons b bs ih =>
    rw [windowSum, ih, List.length_cons, Finset.sum_range_succ', add_comm]
    simp

/-- Settles O42: the sum of the closed form is the window's sum, term by term. -/
theorem foldsHaveTheClosedForm : Obligations.FoldsHaveTheClosedForm := by
  intro h acc bs
  apply gf_injective
  have terms := foldl_xor_eq_sum gf gf_xor (fun _ => true)
    (fun i => gfmul (bs[i]?.getD 0) (gfPow h (bs.length - i))) bs.length
    (gfmul acc (gfPow h bs.length))
  simp only [if_true] at terms
  rw [← foldBlocks_eq_foldl, gf_foldBlocks, windowSum_eq_sum, terms]
  simp only [gf_gfmul, gf_gfPow]

end

/-! The width descent (R141). -/

theorem widestFit_mem (m : Nat) : widestFit m ∈ foldWidths := by
  rw [widestFit]
  cases hf : foldWidths.find? fun w => decide (w ≤ m) with
  | none => decide
  | some w => exact List.mem_of_find?_eq_some hf

theorem widestFit_le (m : Nat) (hm : m ≠ 0) : widestFit m ≤ m := by
  rw [widestFit]
  cases hf : foldWidths.find? fun w => decide (w ≤ m) with
  | none => exact Nat.one_le_iff_ne_zero.mpr hm
  | some w => exact of_decide_eq_true (List.find?_some (p := fun w => decide (w ≤ m)) hf)

theorem one_le_of_mem_foldWidths : ∀ w ∈ foldWidths, 1 ≤ w := by decide

theorem widthsFrom_sum (fuel m : Nat) (h : m ≤ fuel) : (widthsFrom fuel m).sum = m := by
  induction fuel generalizing m with
  | zero => exact (Nat.le_zero.mp h).symm
  | succ fuel ih =>
    rw [widthsFrom]
    split
    · exact (by assumption : m = 0).symm
    · have fits := widestFit_le m (by assumption)
      have pos := one_le_of_mem_foldWidths _ (widestFit_mem m)
      rw [List.sum_cons, ih _ (by omega)]
      omega

theorem mem_foldWidths_of_mem_widthsFrom (fuel m : Nat) :
    ∀ w ∈ widthsFrom fuel m, w ∈ foldWidths := by
  induction fuel generalizing m with
  | zero => simp [widthsFrom]
  | succ fuel ih =>
    rw [widthsFrom]
    split
    · simp
    · rw [List.forall_mem_cons]
      exact ⟨widestFit_mem m, ih _⟩

theorem descentWidths_sum (m : Nat) : (descentWidths m).sum = m := widthsFrom_sum m m le_rfl

theorem foldBlocks_append (h acc : Block) (bs cs : List Block) :
    foldBlocks h acc (bs ++ cs) = foldBlocks h (foldBlocks h acc bs) cs := List.foldl_append ..

theorem foldBlocks_take_drop (h acc : Block) (n : Nat) (bs : List Block) :
    foldBlocks h (foldBlocks h acc (bs.take n)) (bs.drop n) = foldBlocks h acc bs := by
  rw [← foldBlocks_append, List.take_append_drop]

section
variable (k : Nat) (table : List Block) (h : Block) (held : powersHeld k table h) (pos : 1 ≤ k)
include held pos

theorem foldPieces_eq_foldBlocks (fuel : Nat) (acc : Block) (bs : List Block)
    (hf : bs.length ≤ fuel) : foldPieces k table fuel acc bs = foldBlocks h acc bs := by
  induction fuel generalizing acc bs with
  | zero => rw [List.length_eq_zero_iff.mp (Nat.le_zero.mp hf)]; rfl
  | succ fuel ih =>
    rw [foldPieces]
    split
    · rename_i empty
      rw [empty]
      rfl
    · rename_i hne
      have pos_length := List.length_pos_iff.mpr hne
      have piece : bs.take k ≠ [] := List.length_pos_iff.mp (by rw [List.length_take]; omega)
      rw [foldAgg_eq_foldBlocks k table h acc _ held piece (by rw [List.length_take]; omega),
        ih _ _ (by rw [List.length_drop]; omega), foldBlocks_take_drop]

theorem foldWidth_eq_foldBlocks (acc : Block) (bs : List Block) :
    foldWidth k table h acc bs = foldBlocks h acc bs := by
  rw [foldWidth]
  split
  · rfl
  · exact foldPieces_eq_foldBlocks k table h held pos _ acc bs le_rfl

theorem foldByWidths_eq_foldBlocks (ws : List Nat) (acc : Block) (bs : List Block)
    (hw : bs.length ≤ ws.sum) : foldByWidths k table h ws acc bs = foldBlocks h acc bs := by
  induction ws generalizing acc bs with
  | nil => rw [List.length_eq_zero_iff.mp (Nat.le_zero.mp hw)]; rfl
  | cons w ws ih =>
    rw [List.sum_cons] at hw
    rw [foldByWidths, foldWidth_eq_foldBlocks k table h held pos,
      ih _ _ (by rw [List.length_drop]; omega), foldBlocks_take_drop]

theorem foldDescent_eq_foldBlocks (acc : Block) (bs : List Block) :
    foldDescent k table h acc bs = foldBlocks h acc bs :=
  foldByWidths_eq_foldBlocks k table h held pos _ acc bs (descentWidths_sum _).ge

end

/-- Settles O41: the widths are tabled and add up, so every block is in one of them; each width is
folded as its blocks would be, in pieces no larger than the table. -/
theorem widthDescentIsSequential : Obligations.WidthDescentIsSequential :=
  ⟨fun m => ⟨descentWidths_sum m, mem_foldWidths_of_mem_widthsFrom m m⟩,
    fun k table h acc bs held pos => foldDescent_eq_foldBlocks k table h held pos acc bs⟩

end Sys2Proof.Machine

namespace Sys2Proof.Machine

/-! The key schedule (spec/40_blockcipher.md R90 to R93). -/

/-- Words added to a schedule one by one, the next index `n` each time (R92). -/
def extendWords (nk n m : Nat) (w : List Word32) : List Word32 :=
  (List.range' n m).foldl (fun w i => w ++ [nextWord nk w i]) w

theorem extendWords_succ (nk n m : Nat) (w : List Word32) :
    extendWords nk n (m + 1) w =
      extendWords nk n m w ++ [nextWord nk (extendWords nk n m w) (n + m)] := by
  rw [extendWords, List.range'_concat, one_mul, List.foldl_append]
  rfl

theorem extendWords_length (nk n m : Nat) (w : List Word32) :
    (extendWords nk n m w).length = w.length + m := by
  induction m with
  | zero => rfl
  | succ m ih => rw [extendWords_succ, List.length_append, ih]; rfl

theorem wordAt_append_left (w v : List Word32) (i : Nat) (hi : i < w.length) :
    wordAt (w ++ v) i = wordAt w i := by
  rw [wordAt, List.getElem?_append_left hi, wordAt]

theorem wordAt_append_last (w : List Word32) (x : Word32) : wordAt (w ++ [x]) w.length = x := by
  simp [wordAt]

/-- A word of the schedule is read off the words before it only (R92). -/
theorem nextWord_append (nk : Nat) (w v : List Word32) (i : Nat) (hnk : 1 ≤ nk) (hi : 1 ≤ i)
    (hw : i ≤ w.length) : nextWord nk (w ++ v) i = nextWord nk w i := by
  rw [nextWord, wordAt_append_left w v (i - 1) (by omega),
    wordAt_append_left w v (i - nk) (by omega),
    nextWord]

theorem wordAt_extendWords_start (nk n m : Nat) (w : List Word32) (i : Nat) (hi : i < w.length) :
    wordAt (extendWords nk n m w) i = wordAt w i := by
  induction m with
  | zero => rfl
  | succ m ih =>
    rw [extendWords_succ, wordAt_append_left _ _ i (by rw [extendWords_length]; omega), ih]

/-- Every word added is the next word of the finished schedule (R92). -/
theorem wordAt_extendWords (nk m : Nat) (w : List Word32) (hnk : 1 ≤ nk) (hw : w.length = nk)
    (i : Nat) (hi : nk ≤ i) (hm : i < nk + m) :
    wordAt (extendWords nk nk m w) i = nextWord nk (extendWords nk nk m w) i := by
  induction m with
  | zero => omega
  | succ m ih =>
    have length : (extendWords nk nk m w).length = nk + m := by rw [extendWords_length, hw]
    rw [extendWords_succ, nextWord_append nk _ _ i hnk (by omega) (by omega)]
    by_cases last : i = nk + m
    · rw [last, ← length, wordAt_append_last, length]
    · rw [wordAt_append_left _ _ i (by omega), ih (by omega)]

theorem keyWords_eq (nk nr : Nat) (key : List Byte) :
    keyWords nk nr key = extendWords nk nk (4 * (nr + 1) - nk)
      ((List.range nk).map fun i => wordOfBytes ((key.drop (4 * i)).take 4)) := rfl

theorem wordAt_keyWords_of_lt (nk nr : Nat) (key : List Byte) (i : Nat) (hi : i < nk) :
    wordAt (keyWords nk nr key) i = wordOfBytes ((key.drop (4 * i)).take 4) := by
  rw [keyWords_eq, wordAt_extendWords_start _ _ _ _ i (by simpa using hi), wordAt]
  simp [hi]

theorem wordAt_keyWords (nk nr : Nat) (key : List Byte) (hnk : 1 ≤ nk) (i : Nat) (hi : nk ≤ i)
    (hr : i < 4 * (nr + 1)) :
    wordAt (keyWords nk nr key) i = nextWord nk (keyWords nk nr key) i := by
  rw [keyWords_eq, wordAt_extendWords nk _ _ hnk (by simp) i hi (by omega)]

/-! The two files of round keys. -/

theorem roundKey_ofFn (f : Fin 15 → Block) (r : Nat) (hr : r < 15) :
    roundKey (Vector.ofFn f) r = f ⟨r, hr⟩ := by
  simp [roundKey, hr]

theorem roundKey_beyond (rk : RoundKeys) (r : Nat) (hr : 15 ≤ r) : roundKey rk r = 0 := by
  rw [roundKey, Vector.getElem?_eq_none hr]
  rfl

section
variable (nr : Nat) (w : List Word32) (erk : RoundKeys)

theorem roundKey_encryptionKeys (hnr : nr ≤ 14) (r : Nat) (hr : r ≤ nr) :
    roundKey (encryptionKeys nr w) r =
      wordAt w (4 * r) ++ wordAt w (4 * r + 1) ++ wordAt w (4 * r + 2) ++ wordAt w (4 * r + 3) := by
  rw [encryptionKeys, roundKey_ofFn _ r (by omega), if_pos hr]

theorem roundKey_encryptionKeys_of_gt (r : Nat) (hr : nr < r) :
    roundKey (encryptionKeys nr w) r = 0 := by
  by_cases inside : r < 15
  · rw [encryptionKeys, roundKey_ofFn _ r inside, if_neg (Nat.not_le.mpr hr)]
  · exact roundKey_beyond _ r (Nat.not_lt.mp inside)

theorem roundKey_decryptionKeys_zero : roundKey (decryptionKeys nr erk) 0 = roundKey erk nr := by
  rw [decryptionKeys, roundKey_ofFn _ 0 (by omega), if_pos rfl]

theorem roundKey_decryptionKeys (hnr : nr ≤ 14) (r : Nat) (h1 : 1 ≤ r) (hr : r < nr) :
    roundKey (decryptionKeys nr erk) r = invMixColumns (roundKey erk (nr - r)) := by
  rw [decryptionKeys, roundKey_ofFn _ r (by omega), if_neg (show r ≠ 0 by omega), if_pos hr]

theorem roundKey_decryptionKeys_last (hnr : nr ≤ 14) (h1 : 1 ≤ nr) :
    roundKey (decryptionKeys nr erk) nr = roundKey erk 0 := by
  rw [decryptionKeys, roundKey_ofFn _ nr (by omega), if_neg (show nr ≠ 0 by omega),
    if_neg (lt_irrefl nr), if_pos rfl]

theorem roundKey_decryptionKeys_of_gt (r : Nat) (hr : nr < r) :
    roundKey (decryptionKeys nr erk) r = 0 := by
  by_cases inside : r < 15
  · rw [decryptionKeys, roundKey_ofFn _ r inside, if_neg (show r ≠ 0 by omega),
      if_neg (show ¬ r < nr by omega), if_neg (show r ≠ nr by omega)]
  · exact roundKey_beyond _ r (Nat.not_lt.mp inside)

end

theorem keySchedule_drk (key : List Byte) :
    (keySchedule key).drk = decryptionKeys (keySchedule key).nr (keySchedule key).erk := rfl

/-- Ten, twelve or fourteen rounds (R15, R92). -/
theorem keySchedule_nr_le (key : List Byte) (h : key.length ∈ keyLengths) :
    7 ≤ (keySchedule key).nr ∧ (keySchedule key).nr ≤ 14 := by
  rw [keySchedule_nr]
  simp only [keyLengths, List.mem_cons, List.not_mem_nil, or_false] at h
  omega

theorem keySchedule_of_gt (key : List Byte) (r : Nat) (hr : (keySchedule key).nr < r) :
    roundKey (keySchedule key).erk r = 0 ∧ roundKey (keySchedule key).drk r = 0 :=
  ⟨roundKey_encryptionKeys_of_gt _ _ r hr, roundKey_decryptionKeys_of_gt _ _ r hr⟩

/-- Settles O32: the word sequence is read off the list of the schedule, each of whose words is the
next word of the words before it; both files are read entry by entry. -/
theorem keyScheduleFollowsTheRecurrence : Obligations.KeyScheduleFollowsTheRecurrence := by
  rintro key nk nr hlen rfl rfl
  obtain ⟨seven, fourteen⟩ := keySchedule_nr_le key hlen
  have rounds := keySchedule_nr key
  refine ⟨rounds, ⟨wordAt (keyWords (key.length / 4) (keySchedule key).nr key),
    fun i hi => wordAt_keyWords_of_lt _ _ key i hi,
    fun i hi hr => wordAt_keyWords _ _ key (by omega) i hi (rounds ▸ hr),
    fun r hr => roundKey_encryptionKeys _ _ fourteen r (rounds ▸ hr)⟩, ?_⟩
  rw [← rounds]
  exact ⟨keySchedule_of_gt key, roundKey_decryptionKeys_zero _ _,
    roundKey_decryptionKeys _ _ fourteen, roundKey_decryptionKeys_last _ _ fourteen (by omega)⟩

/-! The round transformations byte by byte, and the cipher undone round by round (R85 to R97). -/

theorem byteAt_subBytes (b : Block) (i : Nat) (hi : i < 16) :
    byteAt (subBytes b) i = sbox (byteAt b i) := by
  apply Option.some.inj
  rw [subBytes, ← getElem?_eq_byteAt_blockOfBytes _ i (by simp) hi, List.getElem?_map,
    blockBytes_getElem? b i hi, Option.map_some]

theorem byteAt_invSubBytes (b : Block) (i : Nat) (hi : i < 16) :
    byteAt (invSubBytes b) i = invSbox (byteAt b i) := by
  apply Option.some.inj
  rw [invSubBytes, ← getElem?_eq_byteAt_blockOfBytes _ i (by simp) hi, List.getElem?_map,
    blockBytes_getElem? b i hi, Option.map_some]

theorem byteAt_shiftRows (b : Block) (i : Nat) (hi : i < 16) :
    byteAt (shiftRows b) i = byteAt b ((i + 4 * (i % 4)) % 16) := by
  apply Option.some.inj
  rw [shiftRows, ← getElem?_eq_byteAt_blockOfBytes _ i (by simp) hi, List.getElem?_map,
    List.getElem?_range hi, Option.map_some]

theorem byteAt_invShiftRows (b : Block) (i : Nat) (hi : i < 16) :
    byteAt (invShiftRows b) i = byteAt b ((i + 16 - 4 * (i % 4)) % 16) := by
  apply Option.some.inj
  rw [invShiftRows, ← getElem?_eq_byteAt_blockOfBytes _ i (by simp) hi, List.getElem?_map,
    List.getElem?_range hi, Option.map_some]

theorem shifted_row_back (i : Nat) (hi : i < 16) :
    ((i + 16 - 4 * (i % 4)) % 16 + 4 * ((i + 16 - 4 * (i % 4)) % 16 % 4)) % 16 = i := by
  omega

/-- The byte substitution and the row shift are undone together, in either order. -/
theorem invShiftRows_invSubBytes_round (s : Block) :
    invShiftRows (invSubBytes (shiftRows (subBytes s))) = s := by
  apply block_ext
  intro i hi
  have inside : (i + 16 - 4 * (i % 4)) % 16 < 16 := Nat.mod_lt _ (by decide)
  rw [byteAt_invShiftRows _ i hi, byteAt_invSubBytes _ _ inside, byteAt_shiftRows _ _ inside,
    shifted_row_back i hi, byteAt_subBytes s i hi, invSbox_sbox]

/-- The block after `r` full rounds of E (R95). -/
def encRounds (erk : RoundKeys) (b : Block) (r : Nat) : Block :=
  (List.range' 1 r).foldl (encRound erk) (addRoundKey b (roundKey erk 0))

/-- The block after `r` full rounds of D (R97). -/
def decRounds (drk : RoundKeys) (b : Block) (r : Nat) : Block :=
  (List.range' 1 r).foldl (decRound drk) (addRoundKey b (roundKey drk 0))

theorem encRounds_succ (erk : RoundKeys) (b : Block) (r : Nat) :
    encRounds erk b (r + 1) = encRound erk (encRounds erk b r) (r + 1) := by
  rw [encRounds, List.range'_concat, one_mul, List.foldl_append, Nat.add_comm 1 r]
  rfl

theorem decRounds_succ (drk : RoundKeys) (b : Block) (r : Nat) :
    decRounds drk b (r + 1) = decRound drk (decRounds drk b r) (r + 1) := by
  rw [decRounds, List.range'_concat, one_mul, List.foldl_append, Nat.add_comm 1 r]
  rfl

theorem encryptBlock_eq (erk : RoundKeys) (nr : Nat) (b : Block) :
    encryptBlock erk nr b =
      addRoundKey (shiftRows (subBytes (encRounds erk b (nr - 1)))) (roundKey erk nr) := rfl

theorem decryptBlock_eq (drk : RoundKeys) (nr : Nat) (b : Block) :
    decryptBlock drk nr b =
      addRoundKey (invShiftRows (invSubBytes (decRounds drk b (nr - 1)))) (roundKey drk nr) := rfl

theorem addRoundKey_cancel (b k : Block) : addRoundKey (addRoundKey b k) k = b := by
  rw [addRoundKey, addRoundKey, BitVec.xor_assoc, BitVec.xor_self, BitVec.xor_zero]

/-- The equivalent inverse cipher: after `r` rounds D stands where E stood `r` rounds before its
end, since InvMixColumns passes over the round key (R93, R97). -/
theorem decRounds_encryptBlock (erk : RoundKeys) (nr : Nat) (hnr : nr ≤ 14) (b : Block) (r : Nat)
    (hr : r < nr) :
    decRounds (decryptionKeys nr erk) (encryptBlock erk nr b) r =
      shiftRows (subBytes (encRounds erk b (nr - 1 - r))) := by
  induction r with
  | zero =>
    rw [decRounds, List.range'_zero, List.foldl_nil, roundKey_decryptionKeys_zero, encryptBlock_eq,
      addRoundKey_cancel, Nat.sub_zero]
  | succ r ih =>
    have before : nr - 1 - r = nr - 1 - (r + 1) + 1 := by omega
    have key_index : nr - (r + 1) = nr - 1 - (r + 1) + 1 := by omega
    rw [decRounds_succ, ih (by omega), decRound, invShiftRows_invSubBytes_round,
      roundKey_decryptionKeys nr erk hnr (r + 1) (by omega) hr, addRoundKey, ← invMixColumns_xor,
      before, encRounds_succ, encRound, key_index]
    exact (congrArg invMixColumns (addRoundKey_cancel _ _)).trans (invMixColumns_mixColumns _)

theorem decryptBlock_encryptBlock (erk : RoundKeys) (nr : Nat) (h1 : 1 ≤ nr) (hnr : nr ≤ 14)
    (b : Block) : decryptBlock (decryptionKeys nr erk) nr (encryptBlock erk nr b) = b := by
  have start : nr - 1 - (nr - 1) = 0 := Nat.sub_self _
  rw [decryptBlock_eq, decRounds_encryptBlock erk nr hnr b (nr - 1) (by omega), start,
    invShiftRows_invSubBytes_round, roundKey_decryptionKeys_last nr erk hnr h1]
  exact addRoundKey_cancel b _

/-- There are finitely many blocks, so what undoes E on one side undoes it on the other. -/
theorem encryptBlock_decryptBlock (erk : RoundKeys) (nr : Nat) (h1 : 1 ≤ nr) (hnr : nr ≤ 14)
    (b : Block) : encryptBlock erk nr (decryptBlock (decryptionKeys nr erk) nr b) = b := by
  have undone :
      Function.LeftInverse (decryptBlock (decryptionKeys nr erk) nr) (encryptBlock erk nr) :=
    decryptBlock_encryptBlock erk nr h1 hnr
  have finite : Finite Block := Finite.of_injective BitVec.toFin fun _ _ => BitVec.eq_of_toFin_eq
  exact undone.rightInverse_of_surjective (Finite.surjective_of_injective undone.injective) b

/-- Settles O33: D undoes E round by round, and E undoes D because there are finitely many
blocks. -/
theorem decryptionUndoesEncryption : Obligations.DecryptionUndoesEncryption := by
  intro key b hlen
  obtain ⟨seven, fourteen⟩ := keySchedule_nr_le key hlen
  rw [keySchedule_drk]
  exact ⟨decryptBlock_encryptBlock _ _ (by omega) fourteen b,
    encryptBlock_decryptBlock _ _ (by omega) fourteen b⟩

/-! Lanes (R96, R98). -/

theorem cutRegisters_flatten (L n : Nat) (bs : List Block) (h : bs.length ≤ n * L) :
    (cutRegisters L n bs).flatten = bs := by
  induction n generalizing bs with
  | zero => exact (List.length_eq_zero_iff.mp (by omega)).symm
  | succ n ih =>
    rw [Nat.succ_mul] at h
    rw [cutRegisters, List.flatten_cons, ih _ (by rw [List.length_drop]; omega),
      List.take_append_drop]

theorem le_registerCount_mul (L m : Nat) (hL : 1 ≤ L) : m ≤ registerCount L m * L := by
  have division := Nat.div_add_mod (m + L - 1) L
  have remainder := Nat.mod_lt (m + L - 1) hL
  rw [registerCount, Nat.mul_comm]
  omega

theorem toRegisters_flatten (L : Nat) (bs : List Block) (hL : 1 ≤ L) :
    (toRegisters L bs).flatten = bs := cutRegisters_flatten L _ bs (le_registerCount_mul L _ hL)

/-- A function applied lane by lane in every register is applied block by block. -/
theorem toRegisters_flatMap_map (L : Nat) (bs : List Block) (hL : 1 ≤ L) (f : Block → Block) :
    ((toRegisters L bs).flatMap fun reg => reg.map f) = bs.map f := by
  rw [List.flatMap_def, ← List.map_flatten, toRegisters_flatten L bs hL]

theorem encryptLanes_eq_map (L : Nat) (rk : RoundKeys) (nr : Nat) (bs : List Block) (hL : 1 ≤ L) :
    encryptLanes L rk nr bs = bs.map (encryptBlock rk nr) := by
  rw [encryptLanes, funext (encryptRegister_eq_map rk nr), toRegisters_flatMap_map L bs hL]

theorem decryptLanes_eq_map (L : Nat) (rk : RoundKeys) (nr : Nat) (bs : List Block) (hL : 1 ≤ L) :
    decryptLanes L rk nr bs = bs.map (decryptBlock rk nr) := by
  rw [decryptLanes, funext (decryptRegister_eq_map rk nr), toRegisters_flatMap_map L bs hL]

/-- Settles O34: a register leaves the rounds lane by lane, and the registers hold the run of
blocks in order. -/
theorem laneCipherIsBlockwise : Obligations.LaneCipherIsBlockwise := fun L rk nr bs hL =>
  ⟨encryptLanes_eq_map L rk nr bs hL, decryptLanes_eq_map L rk nr bs hL⟩

/-! Counter lanes (spec/41_counter.md R115, R116). -/

theorem blockOfBytes_beBytes (v : Nat) : blockOfBytes (beBytes 16 v) = BitVec.ofNat 128 v := by
  apply BitVec.eq_of_toNat_eq
  simp only [blockOfBytes, BitVec.toNat_ofNat, beNat_beBytes]
  exact Nat.mod_mod _ _

@[simp] theorem byterev16_byterev16 (c : Block) : byterev16 (byterev16 c) = c := by
  rw [byterev16, byterev16, blockBytes_blockOfBytes _ (by simp), List.reverse_reverse,
    blockOfBytes_blockBytes]

/-- The image of a counter block holds its value as a little-endian lane reads it (R116). -/
theorem laneInt_byterev16 (c : Block) : laneInt (byterev16 c) = c.toNat := by
  rw [laneInt, byterev16, blockBytes_blockOfBytes _ (by simp), List.reverse_reverse, blockBytes,
    beNat_beBytes]
  exact Nat.mod_eq_of_lt c.isLt

theorem laneOfInt_eq_byterev16 (v : Nat) : laneOfInt v = byterev16 (BitVec.ofNat 128 v) := by
  rw [laneOfInt, byterev16, ← blockOfBytes_beBytes, blockBytes_blockOfBytes _ (by simp)]

theorem toNat_append_counter (nonce : Nonce) (w : BitVec 32) :
    (nonce ++ w).toNat = nonce.toNat * 2 ^ 32 + w.toNat := by
  rw [BitVec.toNat_append, ← Nat.shiftLeft_add_eq_or_of_lt w.isLt, Nat.shiftLeft_eq]

/-- `inc32` on the integer of the block: a sum in the low 32 bits (R111). -/
theorem inc32_toNat (c : Block) (n : Nat) :
    (inc32 c n).toNat = c.toNat / 2 ^ 32 * 2 ^ 32 + (c.toNat % 2 ^ 32 + n) % 2 ^ 32 := by
  have value := toNat_append_counter (nonceOf c) (blockCounter c)
  rw [nonceOf_append_blockCounter] at value
  have bound := (blockCounter c).isLt
  rw [inc32, toNat_append_counter, BitVec.toNat_add, BitVec.toNat_ofNat]
  omega

theorem laneAdd_byterev16 (c : Block) (n : Nat) :
    laneAdd (byterev16 c) n = byterev16 (inc32 c n) := by
  rw [laneAdd, laneInt_byterev16, laneOfInt_eq_byterev16, ← inc32_toNat, BitVec.ofNat_toNat,
    BitVec.setWidth_eq]

@[simp] theorem nonceOf_append (nonce : Nonce) (w : BitVec 32) : nonceOf (nonce ++ w) = nonce :=
  BitVec.extractLsb'_append_eq_left

@[simp] theorem blockCounter_append (nonce : Nonce) (w : BitVec 32) :
    blockCounter (nonce ++ w) = w := BitVec.extractLsb'_append_eq_right

@[simp] theorem nonceOf_inc32 (c : Block) (n : Nat) : nonceOf (inc32 c n) = nonceOf c :=
  nonceOf_append _ _

@[simp] theorem blockCounter_inc32 (c : Block) (n : Nat) :
    blockCounter (inc32 c n) = blockCounter c + BitVec.ofNat 32 n := blockCounter_append _ _

theorem inc32_inc32 (c : Block) (m n : Nat) : inc32 (inc32 c m) n = inc32 c (m + n) := by
  rw [inc32, nonceOf_inc32, blockCounter_inc32, BitVec.add_assoc, ← BitVec.ofNat_add, inc32]

@[simp] theorem inc32_zero (c : Block) : inc32 c 0 = c := by
  rw [inc32, BitVec.add_zero, nonceOf_append_blockCounter]

/-- The counter blocks from the `n`-th after `c` on, as images. -/
def counterImages (c : Block) (n m : Nat) : List Block :=
  (List.range' n m).map fun i => byterev16 (inc32 c i)

theorem firstCounters_eq (L : Nat) (c : Block) : firstCounters L c = counterImages c 1 L := by
  simp only [firstCounters, counterImages, laneAdd_byterev16, List.range'_eq_map_range,
    List.map_map, Function.comp_def, Nat.add_comm 1]

theorem counterImages_map_laneAdd (c : Block) (n m L : Nat) :
    ((counterImages c n m).map fun v => laneAdd v L) = counterImages c (n + L) m := by
  simp only [counterImages, List.map_map, Function.comp_def, laneAdd_byterev16, inc32_inc32,
    List.range'_eq_map_range, Nat.add_right_comm n]

theorem counterRegisters_flatten (L : Nat) (c : Block) (n start : Nat) :
    (counterRegisters L n (counterImages c start L)).flatten = counterImages c start (n * L) := by
  induction n generalizing start with
  | zero => simp [counterRegisters, counterImages]
  | succ n ih =>
    rw [counterRegisters, List.flatten_cons, counterImages_map_laneAdd, ih, counterImages,
      counterImages, counterImages, ← List.map_append, List.range'_append_1, Nat.succ_mul,
      Nat.add_comm L]

theorem issueLanes_eq_issuedBlocks (L : Nat) (c : Block) (m : Nat) (hL : 1 ≤ L) :
    issueLanes L c m = issuedBlocks c m := by
  have enough := le_registerCount_mul L m hL
  have taken : (counterImages c 1 (registerCount L m * L)).take m = counterImages c 1 m := by
    rw [counterImages, ← List.map_take, counterImages,
      ← Nat.add_sub_cancel' enough, ← List.range'_append_1, List.take_left' List.length_range']
  rw [issueLanes, firstCounters_eq, counterRegisters_flatten, taken]
  simp only [counterImages, issuedBlocks, List.map_map, Function.comp_def, byterev16_byterev16,
    List.range'_eq_map_range, Nat.add_comm 1]

/-- Settles O36: adding in a lane is `inc32` on the block whose image it holds, so the registers
hold the images of the blocks in order. -/
theorem laneCountersIssueTheSameBlocks : Obligations.LaneCountersIssueTheSameBlocks :=
  fun L c m hL _ => issueLanes_eq_issuedBlocks L c m hL

end Sys2Proof.Machine

namespace Sys2Proof.Machine

/-! What every command can do, said once (spec/60_exceptions.md R190): the endings of the operand
and state tests, the status answer of RDST, and the effects of a command that passes both tests. -/

/-- The endings of a command that has passed the tests of its operand and of the state: status,
output, and the state before the response. RDST, which writes no state, stands apart. -/
inductive Effect (s : State) : Instr → Status → List Byte → State → Prop
  | kexpRefused (a : BitVec 8) (key : List Byte) (manual : s.manual) (ha : ¬ keyLengthLegal a) :
    Effect s (.kexp a key) .invalidKeyLength [] s.clearKey
  | kexp (a : BitVec 8) (key : List Byte) (manual : s.manual) (ha : keyLengthLegal a) :
    Effect s (.kexp a key) .ok [] (s.clearKey.loadKey a key)
  | encb (a : BitVec 8) (blocks : List Block) (keyed : s.kv = true) :
    Effect s (.encb a blocks) .ok
      (blocks.flatMap fun b => blockBytes (encryptBlock s.erk s.nr.toNat b)) s
  | decb (a : BitVec 8) (blocks : List Block) (keyed : s.kv = true) :
    Effect s (.decb a blocks) .ok
      (blocks.flatMap fun b => blockBytes (decryptBlock s.drk s.nr.toNat b)) s
  | cinit (nonce : Nonce) (manual : s.manual) : Effect s (.cinit nonce) .ok [] (s.seed nonce)
  | cnextTooLong (a : BitVec 8) (manual : s.manual) (seeded : s.cv = true)
    (long : ¬ canIssue s.ctr a.toNat) : Effect s (.cnext a) .messageTooLong [] s
  | cnext (a : BitVec 8) (manual : s.manual) (seeded : s.cv = true)
    (range : canIssue s.ctr a.toNat) :
    Effect s (.cnext a) .ok (bytesOfBlocks (issuedBlocks s.ctr a.toNat)) (s.advance a.toNat)
  | ginit (manual : s.manual) (keyed : s.kv = true) : Effect s .ginit .ok [] s.hashInit
  | gfold (block : Block) (manual : s.manual) (hashed : s.gv = true) :
    Effect s (.gfold block) .ok [] (s.foldIn block)
  | gfoldn (a : BitVec 8) (blocks : List Block) (ha : foldCountLegal s.build a) (manual : s.manual)
    (hashed : s.gv = true) : Effect s (.gfoldn a blocks) .ok [] (s.foldAggIn blocks)
  | gfinal (block : Block) (manual : s.manual) (hashed : s.gv = true) :
    Effect s (.gfinal block) .ok (blockBytes (s.foldIn block).acc) (s.foldIn block)
  | gcmInitRefused (a : BitVec 8) (len : BitVec 48) (key : List Byte) (nonce : Nonce)
    (aad : List Byte) (ha : ¬ keyLengthLegal a) :
    Effect s (.gcmInit a len key nonce aad) .invalidKeyLength [] s.wiped
  | gcmInit (a : BitVec 8) (len : BitVec 48) (key : List Byte) (nonce : Nonce) (aad : List Byte)
    (ha : keyLengthLegal a) :
    Effect s (.gcmInit a len key nonce aad) .ok [] (s.wiped.startMessage a len key nonce aad)
  | gcmEncTooLong (len : BitVec 48) (p : List Byte) (opened : s.streamOpen)
    (dir : s.directionFree .enc)
    (long : ¬ canIssue s.ctr (blocksNeeded s.resn.toNat p.length)) :
    Effect s (.gcmEnc len p) .messageTooLong [] s.abortStream
  | gcmEnc (len : BitVec 48) (p : List Byte) (opened : s.streamOpen) (dir : s.directionFree .enc)
    (range : canIssue s.ctr (blocksNeeded s.resn.toNat p.length)) :
    Effect s (.gcmEnc len p) .ok (s.updateBytes .enc p).2
      ((s.updateBytes .enc p).1.finishUpdate .enc p.length)
  | gcmDecTooLong (len : BitVec 48) (p : List Byte) (opened : s.streamOpen)
    (dir : s.directionFree .dec)
    (long : ¬ canIssue s.ctr (blocksNeeded s.resn.toNat p.length)) :
    Effect s (.gcmDec len p) .messageTooLong [] s.abortStream
  | gcmDec (len : BitVec 48) (p : List Byte) (opened : s.streamOpen) (dir : s.directionFree .dec)
    (range : canIssue s.ctr (blocksNeeded s.resn.toNat p.length)) :
    Effect s (.gcmDec len p) .ok (s.updateBytes .dec p).2
      ((s.updateBytes .dec p).1.finishUpdate .dec p.length)
  | gcmFinal (a : BitVec 8) (ha : tagLengthLegal a) (opened : s.streamOpen) :
    Effect s (.gcmFinal a) .ok (tagBytes a.toNat s.closeTag) s.closed
  | gcmVerify (a : BitVec 8) (tag : List Byte) (ha : tagLengthLegal a) (opened : s.streamOpen) :
    Effect s (.gcmVerify a tag) (verdict a tag s) [] s.closed
  | zeroize : Effect s .zeroize .ok [] s.wiped

/-- The state a command leaves. -/
inductive Ending (s : State) (i : Instr) : State → Prop
  | illegal (cause : operandLegal s.build i = false) : Ending s i (s.respond .illegalCommand [])
  | refused (legal : operandLegal s.build i = true) (cause : invalidStateCause s i = true) :
    Ending s i (s.respond .invalidState [])
  | status (hi : i = .rdst) : Ending s i (s.send .ok s.statusBytes)
  | passed {st : Status} {out : List Byte} {u : State} (legal : operandLegal s.build i = true)
    (free : invalidStateCause s i = false) (effect : Effect s i st out u) :
    Ending s i (u.respond st out)

/-! Every command ends so. -/

section
variable {s : State}

theorem manual_of_free {ready : Bool}
    (free : (decide (s.fsm ≠ .uninit) || !ready) = false) : s.manual ∧ ready = true := by
  simpa using free

theorem open_of_free (free : decide (s.fsm = .uninit ∨ s.fsm = .final) = false) : s.streamOpen :=
  not_not.mp fun closed => of_decide_eq_false free ((not_streamOpen_iff s).mp closed)

theorem update_of_free {d : Direction}
    (free : (decide (s.fsm = .uninit ∨ s.fsm = .final) ||
      decide (s.dir = some d.opposite)) = false) :
    s.streamOpen ∧ s.directionFree d := by
  rw [Bool.or_eq_false_iff] at free
  exact ⟨open_of_free free.1, (directionFree_iff d s).mpr (of_decide_eq_false free.2)⟩

end

/-- A command that passes both tests has an effect. -/
theorem exists_effect (i : Instr) (s : State) (hi : i ≠ .rdst)
    (legal : operandLegal s.build i = true) (free : invalidStateCause s i = false) :
    ∃ st out u, Effect s i st out u := by
  cases i with
  | kexp a key =>
    have manual : s.manual := not_not.mp (of_decide_eq_false free)
    by_cases ha : keyLengthLegal a
    · exact ⟨_, _, _, .kexp a key manual ha⟩
    · exact ⟨_, _, _, .kexpRefused a key manual ha⟩
  | encb a blocks => exact ⟨_, _, _, .encb a blocks (by simpa [invalidStateCause] using free)⟩
  | decb a blocks => exact ⟨_, _, _, .decb a blocks (by simpa [invalidStateCause] using free)⟩
  | cinit nonce => exact ⟨_, _, _, .cinit nonce (not_not.mp (of_decide_eq_false free))⟩
  | cnext a =>
    obtain ⟨manual, seeded⟩ := manual_of_free free
    by_cases range : canIssue s.ctr a.toNat
    · exact ⟨_, _, _, .cnext a manual seeded range⟩
    · exact ⟨_, _, _, .cnextTooLong a manual seeded range⟩
  | ginit =>
    obtain ⟨manual, keyed⟩ := manual_of_free free
    exact ⟨_, _, _, .ginit manual keyed⟩
  | gfold block =>
    obtain ⟨manual, hashed⟩ := manual_of_free free
    exact ⟨_, _, _, .gfold block manual hashed⟩
  | gfoldn a blocks =>
    obtain ⟨manual, hashed⟩ := manual_of_free free
    exact ⟨_, _, _, .gfoldn a blocks (of_decide_eq_true legal) manual hashed⟩
  | gfinal block =>
    obtain ⟨manual, hashed⟩ := manual_of_free free
    exact ⟨_, _, _, .gfinal block manual hashed⟩
  | gcmInit a len key nonce aad =>
    by_cases ha : keyLengthLegal a
    · exact ⟨_, _, _, .gcmInit a len key nonce aad ha⟩
    · exact ⟨_, _, _, .gcmInitRefused a len key nonce aad ha⟩
  | gcmEnc len p =>
    obtain ⟨opened, dir⟩ := update_of_free (d := .enc) free
    by_cases range : canIssue s.ctr (blocksNeeded s.resn.toNat p.length)
    · exact ⟨_, _, _, .gcmEnc len p opened dir range⟩
    · exact ⟨_, _, _, .gcmEncTooLong len p opened dir range⟩
  | gcmDec len p =>
    obtain ⟨opened, dir⟩ := update_of_free (d := .dec) free
    by_cases range : canIssue s.ctr (blocksNeeded s.resn.toNat p.length)
    · exact ⟨_, _, _, .gcmDec len p opened dir range⟩
    · exact ⟨_, _, _, .gcmDecTooLong len p opened dir range⟩
  | gcmFinal a => exact ⟨_, _, _, .gcmFinal a (of_decide_eq_true legal) (open_of_free free)⟩
  | gcmVerify a tag =>
    exact ⟨_, _, _, .gcmVerify a tag (of_decide_eq_true legal) (open_of_free free)⟩
  | rdst => exact absurd rfl hi
  | zeroize => exact ⟨_, _, _, .zeroize⟩

section
variable {d : Direction} {p : List Byte} {s : State} (opened : s.streamOpen)
  (dir : s.directionFree d)
include opened dir

theorem update_of_too_long (long : ¬ canIssue s.ctr (blocksNeeded s.resn.toNat p.length)) :
    s.update d p = s.abortStream.respond .messageTooLong [] :=
  (update_of_allowed d p s opened ((directionFree_iff d s).mp dir)).trans (if_pos long)

theorem update_of_in_range (range : canIssue s.ctr (blocksNeeded s.resn.toNat p.length)) :
    s.update d p =
      ((s.updateBytes d p).1.finishUpdate d p.length).respond .ok (s.updateBytes d p).2 :=
  (update_of_allowed d p s opened ((directionFree_iff d s).mp dir)).trans
    (if_neg (not_not_intro range))

end

/-- An effect is the command's: its conditions are those of one ending of the rule. -/
theorem Effect.exec_eq {s u : State} {i : Instr} {st : Status} {out : List Byte}
    (h : Effect s i st out u) (legal : operandLegal s.build i = true) :
    exec i s = .next (u.respond st out) := by
  cases h with
  | kexpRefused a key manual ha => exact exec_kexp_of_illegal_length a key s manual ha
  | kexp a key manual ha => exact exec_kexp_of_legal_length a key s manual ha
  | encb a blocks keyed =>
    rw [exec_encb, blockCommand_of_key a _ s (of_decide_eq_true legal) keyed]
  | decb a blocks keyed =>
    rw [exec_decb, blockCommand_of_key a _ s (of_decide_eq_true legal) keyed]
  | cinit nonce manual => exact exec_cinit_of_manual nonce s manual
  | cnextTooLong a manual seeded long =>
    exact exec_cnext_of_out_of_range a s (of_decide_eq_true legal) manual seeded long
  | cnext a manual seeded range =>
    exact exec_cnext_of_in_range a s (of_decide_eq_true legal) manual seeded range
  | ginit manual keyed => exact manualCommand_of_ready _ _ s manual keyed
  | gfold block manual hashed => exact manualCommand_of_ready _ _ s manual hashed
  | gfoldn a blocks ha manual hashed =>
    rw [exec_gfoldn_of_legal_count a blocks s ha, manualCommand_of_ready _ _ s manual hashed]
  | gfinal block manual hashed => exact manualCommand_of_ready _ _ s manual hashed
  | gcmInitRefused a len key nonce aad ha =>
    exact exec_gcmInit_of_illegal_length a len key nonce aad s ha
  | gcmInit a len key nonce aad ha => exact exec_gcmInit_of_legal_length a len key nonce aad s ha
  | gcmEncTooLong len p opened dir long => exact congrArg _ (update_of_too_long opened dir long)
  | gcmEnc len p opened dir range => exact congrArg _ (update_of_in_range opened dir range)
  | gcmDecTooLong len p opened dir long => exact congrArg _ (update_of_too_long opened dir long)
  | gcmDec len p opened dir range => exact congrArg _ (update_of_in_range opened dir range)
  | gcmFinal a ha opened => rw [exec_gcmFinal, closeCommand_of_open a _ s ha.1 ha.2 opened]
  | gcmVerify a tag ha opened => rw [exec_gcmVerify, closeCommand_of_open a _ s ha.1 ha.2 opened]
  | zeroize => exact exec_zeroize s

/-- Every command answers, and with one of the endings. -/
theorem exec_ending (i : Instr) (s : State) : ∃ t, exec i s = .next t ∧ Ending s i t := by
  cases legal : operandLegal s.build i with
  | false => exact ⟨_, (exec_endsByCause i s).eq_illegal legal, .illegal legal⟩
  | true =>
    cases cause : invalidStateCause s i with
    | true => exact ⟨_, (exec_endsByCause i s).eq_refused legal cause, .refused legal cause⟩
    | false =>
      by_cases hi : i = .rdst
      · subst hi
        exact ⟨_, exec_rdst s, .status rfl⟩
      · obtain ⟨st, out, u, effect⟩ := exists_effect i s hi legal cause
        exact ⟨_, effect.exec_eq legal, .passed legal cause effect⟩

theorem ending_of_exec {i : Instr} {s t : State} (h : exec i s = .next t) : Ending s i t := by
  obtain ⟨t', ht', ending⟩ := exec_ending i s
  rw [h] at ht'
  cases ht'
  exact ending

/-! What no effect touches: the ports and the build. -/

@[simp] theorem updateBytes_inbox (d : Direction) (p : List Byte) (s : State) :
    (s.updateBytes d p).1.inbox = s.inbox := by
  obtain ⟨ctr, ks, res, resn, acc, hs⟩ := updateBytes_frame d p s
  rw [hs]

@[simp] theorem updateBytes_build (d : Direction) (p : List Byte) (s : State) :
    (s.updateBytes d p).1.build = s.build := by
  obtain ⟨ctr, ks, res, resn, acc, hs⟩ := updateBytes_frame d p s
  rw [hs]

theorem Effect.ports {s u : State} {i : Instr} {st : Status} {out : List Byte}
    (h : Effect s i st out u) : u.inbox = s.inbox ∧ u.outbox = s.outbox ∧ u.build = s.build := by
  cases h with
  | gcmEnc len p => simp
  | gcmDec len p => simp
  | _ => exact ⟨rfl, rfl, rfl⟩

theorem Effect.ne_rdst {s u : State} {i : Instr} {st : Status} {out : List Byte}
    (h : Effect s i st out u) : i ≠ .rdst := by
  rintro rfl
  cases h

/-! ### The counter between seeds (spec/41_counter.md section 1) -/

/-- The counter has not been seeded anew and has not gone back. -/
def CounterKept (s t : State) : Prop :=
  t.cv = s.cv ∧ nonceOf t.ctr = nonceOf s.ctr ∧
    (blockCounter s.ctr).toNat ≤ (blockCounter t.ctr).toNat

theorem counterKept_of_eq {s t : State} (hcv : t.cv = s.cv) (hctr : t.ctr = s.ctr) :
    CounterKept s t := ⟨hcv, by rw [hctr], by rw [hctr]⟩

theorem counterKept_of_inc32 {s t : State} (n : Nat) (range : canIssue s.ctr n) (hcv : t.cv = s.cv)
    (hctr : t.ctr = inc32 s.ctr n) : CounterKept s t := by
  refine ⟨hcv, by rw [hctr, nonceOf_inc32], ?_⟩
  rw [hctr, blockCounter_inc32, toNat_blockCounter_add _ _ range]
  exact Nat.le_add_right _ _

/-- The blocks begun by `n` bytes in a stream that stands at byte `r` of its block (R152). -/
theorem blocksNeeded_eq (r n : Nat) (hr : r < 16) :
    blocksNeeded r n = blockCount (r + n) - blockCount r := by
  simp only [blocksNeeded, blockCount]
  split
  · omega
  · split <;> omega

theorem blocksNeeded_add (r m n : Nat) (hr : r < 16) :
    blocksNeeded r (m + n) = blocksNeeded r m + blocksNeeded ((r + m) % 16) n := by
  rw [blocksNeeded_eq r _ hr, blocksNeeded_eq r _ hr,
    blocksNeeded_eq _ _ (Nat.mod_lt _ (by decide))]
  simp only [blockCount]
  omega

theorem updateByte_ctr (d : Direction) (s : State) (x : Byte) :
    (s.updateByte d x).1.ctr = inc32 s.ctr (blocksNeeded s.resn.toNat 1) := by
  have absorbed : (s.updateByte d x).1.ctr = s.beginBlock.ctr := by
    rw [State.updateByte]
    obtain ⟨-, ha⟩ | ⟨-, ha⟩ := absorb_cases
      (cipherByte d x (x ^^^ byteAt s.beginBlock.ks s.beginBlock.resn.toNat)) s.beginBlock
    · rw [ha]
    · rw [ha]
  rw [absorbed]
  obtain ⟨hn, hb⟩ | ⟨hn, hb⟩ := beginBlock_cases s
  · rw [hb, hn]
    rfl
  · have hn : s.resn.toNat ≠ 0 := fun h => hn (BitVec.eq_of_toNat_eq h)
    have none_begun : blocksNeeded s.resn.toNat 1 = 0 := by
      have := s.resn.isLt
      rw [blocksNeeded_eq _ _ this, blockCount, blockCount]
      omega
    rw [hb, none_begun, inc32_zero]

/-- An update takes the counter on by the blocks it begins (R152). -/
theorem updateBytes_ctr (d : Direction) (p : List Byte) (s : State) :
    (s.updateBytes d p).1.ctr = inc32 s.ctr (blocksNeeded s.resn.toNat p.length) := by
  induction p generalizing s with
  | nil => exact (inc32_zero _).symm
  | cons x xs ih =>
    rw [updateBytes_cons, ih, updateByte_ctr, inc32_inc32, updateByte_resn, List.length_cons,
      Nat.add_comm xs.length, blocksNeeded_add _ 1 _ s.resn.isLt]

@[simp] theorem updateBytes_cv (d : Direction) (p : List Byte) (s : State) :
    (s.updateBytes d p).1.cv = s.cv := by
  obtain ⟨ctr, ks, res, resn, acc, hs⟩ := updateBytes_frame d p s
  rw [hs]

theorem Effect.counterKept {s u : State} {i : Instr} {st : Status} {out : List Byte}
    (h : Effect s i st out u) (hi : instrOpcode i ∉ [.cinit, .gcmInit, .zeroize]) :
    CounterKept s u := by
  cases h with
  | cnext a _ _ range => exact counterKept_of_inc32 _ range rfl rfl
  | gcmEnc len p _ _ range =>
    exact counterKept_of_inc32 _ range (updateBytes_cv .enc p s) (updateBytes_ctr .enc p s)
  | gcmDec len p _ _ range =>
    exact counterKept_of_inc32 _ range (updateBytes_cv .dec p s) (updateBytes_ctr .dec p s)
  | cinit | gcmInitRefused | gcmInit | zeroize => simp [instrOpcode] at hi
  | _ => exact counterKept_of_eq rfl rfl

/-- Settles O37: CNEXT and the updates take the counter on within its range; no other command writes
it. -/
theorem counterNeverGoesBack : Obligations.CounterNeverGoesBack := by
  intro i s t ht hi
  cases ending_of_exec ht with
  | illegal | refused | status => exact counterKept_of_eq rfl rfl
  | passed _ _ effect => exact effect.counterKept hi

end Sys2Proof.Machine

namespace Sys2Proof.Machine

/-! The invariants (spec/10_state.md R32). They speak of the elements only, not of LASTST and the
ports; they hold at reset; a manual state has few of them to keep, and an update keeps those of an
open stream byte by byte. -/

theorem Inv.ports {s : State} (h : Inv s) (st : Status) (inbox : List HostEvent)
    (outbox : List Response) : Inv { s with lastst := st, inbox := inbox, outbox := outbox } :=
  { h with build_legal := h.build_legal }

theorem Inv.respond {s : State} (h : Inv s) (st : Status) (out : List Byte) :
    Inv (s.respond st out) := h.ports st _ _

theorem Inv.send {s : State} (h : Inv s) (st : Status) (out : List Byte) : Inv (s.send st out) :=
  h.ports _ _ _

theorem Inv.offered {s : State} (h : Inv s) (events : List HostEvent) :
    Inv { s with inbox := events } := h.ports _ _ _

/-! ### Reset -/

@[simp] theorem byteAt_zero (i : Nat) : byteAt 0 i = 0 := by
  simp [byteAt]

theorem inv_resetOf (b : Build) (legal : b.legal) : Inv (State.resetOf b) where
  build_legal := legal
  key_absent _ := ⟨rfl, rfl, rfl, rfl⟩
  key_present := Bool.noConfusion
  hash_present := Bool.noConfusion
  hash_absent _ := ⟨rfl, rfl, rfl⟩
  message h := absurd rfl h
  counter_present := Bool.noConfusion
  counter_absent _ := rfl
  mask h := absurd rfl h
  residue_zero i _ _ := byteAt_zero i
  residue_open h := absurd rfl h
  fresh := Fsm.noConfusion
  running := Fsm.noConfusion
  lengths := ⟨Nat.two_pow_pos 48, Nat.zero_le _⟩
  quiet _ := ⟨rfl, rfl, rfl, rfl, rfl, rfl, rfl⟩
  idle := ⟨rfl, rfl, rfl, rfl⟩

/-- Settles O57: the default build is legal. -/
theorem resetHasTheInvariants : Obligations.ResetHasTheInvariants :=
  ⟨inv_resetOf, inv_resetOf Build.standard (by decide)⟩

theorem Inv.wiped {s : State} (h : Inv s) : Inv s.wiped :=
  (inv_resetOf s.build h.build_legal).ports _ _ _

theorem Inv.resetInput {s : State} (h : Inv s) (rest : List HostEvent) : Inv (s.resetInput rest) :=
  (inv_resetOf s.build h.build_legal).ports _ _ _

/-! ### Commands of manual mode -/

section
variable {s : State} (h : Inv s)
include h

theorem Inv.resn_of_manual (manual : s.manual) : s.resn = 0 := by
  obtain ⟨-, -, -, -, -, resn, -⟩ := h.quiet manual
  exact resn

theorem Inv.clearKey (manual : s.manual) : Inv s.clearKey :=
  { h with
    key_absent := fun _ => ⟨rfl, rfl, rfl, rfl⟩
    key_present := Bool.noConfusion
    hash_present := Bool.noConfusion
    hash_absent := fun _ => ⟨rfl, rfl, rfl⟩
    message := fun open_ => absurd manual open_
    mask := fun open_ => absurd manual open_
    residue_open := fun some_ => absurd (h.resn_of_manual manual) some_ }

omit h in
/-- The schedule of a key of legal length is that of R15. -/
theorem key_present_loadKey (s : State) (a : BitVec 8) (key : List Byte) (ha : keyLengthLegal a)
    (hlen : key.length = a.toNat) :
    (s.loadKey a key).klen.toNat ∈ keyLengths ∧
    (s.loadKey a key).nr.toNat = (s.loadKey a key).klen.toNat / 4 + 6 ∧
    (∀ r, (s.loadKey a key).nr.toNat < r →
      roundKey (s.loadKey a key).erk r = 0 ∧ roundKey (s.loadKey a key).drk r = 0) ∧
    ∃ key' : List Byte, key'.length = (s.loadKey a key).klen.toNat ∧
      (s.loadKey a key).erk = (keySchedule key').erk ∧
      (s.loadKey a key).drk = (keySchedule key').drk := by
  have rounds : (s.loadKey a key).nr.toNat = (keySchedule key).nr := by
    rw [State.loadKey_nr, BitVec.toNat_ofNat, keySchedule_nr, hlen]
    omega
  refine ⟨ha, ?_, ?_, key, hlen, rfl, rfl⟩
  · rw [rounds, keySchedule_nr, hlen]
    rfl
  · rw [rounds]
    exact keySchedule_of_gt key

theorem Inv.loadKey (manual : s.manual) (hashless : s.gv = false) (a : BitVec 8) (key : List Byte)
    (ha : keyLengthLegal a) (hlen : key.length = a.toNat) : Inv (s.loadKey a key) :=
  { h with
    key_absent := Bool.noConfusion
    key_present := fun _ => key_present_loadKey s a key ha hlen
    hash_present := fun hashed => absurd (hashless.symm.trans hashed) Bool.false_ne_true
    message := fun open_ => absurd manual open_
    mask := fun open_ => absurd manual open_
    residue_open := fun some_ => absurd (h.resn_of_manual manual) some_ }

theorem Inv.seed (manual : s.manual) (nonce : Nonce) : Inv (s.seed nonce) :=
  { h with
    counter_present := fun _ =>
      le_of_eq (congrArg BitVec.toNat (blockCounter_append nonce 1#32)).symm
    counter_absent := Bool.noConfusion
    message := fun open_ => absurd manual open_
    mask := fun open_ => absurd manual open_
    residue_open := fun some_ => absurd (h.resn_of_manual manual) some_
    fresh := fun fresh => absurd (manual.symm.trans fresh) (by decide)
    running := fun running => absurd (manual.symm.trans running) (by decide) }

theorem Inv.advance (manual : s.manual) (seeded : s.cv = true) (n : Nat)
    (range : canIssue s.ctr n) : Inv (s.advance n) :=
  { h with
    counter_present := fun _ => by
      rw [State.advance_ctr, blockCounter_inc32, toNat_blockCounter_add _ _ range]
      exact (h.counter_present seeded).trans (Nat.le_add_right _ _)
    counter_absent := fun unseeded => absurd (unseeded.symm.trans seeded) Bool.false_ne_true
    mask := fun open_ => absurd manual open_
    residue_open := fun some_ => absurd (h.resn_of_manual manual) some_
    fresh := fun fresh => absurd (manual.symm.trans fresh) (by decide)
    running := fun running => absurd (manual.symm.trans running) (by decide) }

theorem Inv.hashInit (manual : s.manual) (keyed : s.kv = true) : Inv s.hashInit :=
  { h with
    hash_present := fun _ => ⟨keyed, rfl, powersHeld_powerTable _ _⟩
    hash_absent := Bool.noConfusion
    message := fun open_ => absurd manual open_ }

theorem Inv.foldIn (hashed : s.gv = true) (block : Block) : Inv (s.foldIn block) :=
  { h with hash_absent := fun hashless => absurd (hashless.symm.trans hashed) Bool.false_ne_true }

theorem Inv.foldAggIn (hashed : s.gv = true) (blocks : List Block) : Inv (s.foldAggIn blocks) :=
  { h with
    hash_absent := fun hashless => absurd (hashless.symm.trans hashed) Bool.false_ne_true
    idle := ⟨rfl, rfl, rfl, h.idle.2.2.2⟩ }

/-! ### Beginning and ending a message -/

theorem Inv.startMessage (a : BitVec 8) (len : BitVec 48) (key : List Byte) (nonce : Nonce)
    (aad : List Byte) (ha : keyLengthLegal a) (hlen : key.length = a.toNat) :
    Inv (s.startMessage a len key nonce aad) where
  build_legal := h.build_legal
  key_absent := Bool.noConfusion
  key_present _ := key_present_loadKey s a key ha hlen
  hash_present _ := ⟨rfl, rfl, powersHeld_powerTable _ _⟩
  hash_absent := Bool.noConfusion
  message _ := ⟨rfl, rfl, rfl⟩
  counter_present _ := le_of_eq (congrArg BitVec.toNat (blockCounter_append nonce 1#32)).symm
  counter_absent := Bool.noConfusion
  mask _ := by
    rw [State.startMessage_tmask, State.startMessage_ctr, seedBlock, nonceOf_append]
    rfl
  residue_zero i _ _ := byteAt_zero i
  residue_open some_ := absurd rfl some_
  fresh _ := ⟨rfl, rfl, rfl, congrArg BitVec.toNat (blockCounter_append nonce 1#32)⟩
  running := Fsm.noConfusion
  lengths := by
    have fits : (len.setWidth 64).toNat = len.toNat :=
      BitVec.toNat_setWidth_of_le (by decide)
    exact ⟨fits ▸ len.isLt, Nat.zero_le _⟩
  quiet := Fsm.noConfusion
  idle := h.idle

theorem Inv.hashed_of_open (opened : s.streamOpen) : s.gv = true := by
  refine (h.message fun manual => ?_).2.2
  simp [State.streamOpen, manual] at opened

theorem Inv.abortStream (opened : s.streamOpen) : Inv s.abortStream := by
  have not_manual : s.fsm ≠ .uninit := fun manual => by simp [State.streamOpen, manual] at opened
  exact { h with
    hash_absent := fun hashless => ⟨(h.hash_absent hashless).1, (h.hash_absent hashless).2.1, rfl⟩
    message := fun _ => h.message not_manual
    mask := fun _ => h.mask not_manual
    residue_zero := fun i _ _ => byteAt_zero i
    residue_open := fun some_ => absurd rfl some_
    fresh := Fsm.noConfusion
    running := Fsm.noConfusion
    quiet := Fsm.noConfusion }

theorem Inv.closed (opened : s.streamOpen) : Inv s.closed := by
  have not_manual : s.fsm ≠ .uninit := fun manual => by simp [State.streamOpen, manual] at opened
  have hashed := h.hashed_of_open opened
  exact { h with
    hash_absent := fun hashless => absurd (hashless.symm.trans hashed) Bool.false_ne_true
    message := fun _ => h.message not_manual
    mask := fun _ => h.mask not_manual
    residue_zero := fun i _ _ => byteAt_zero i
    residue_open := fun some_ => absurd rfl some_
    fresh := Fsm.noConfusion
    running := Fsm.noConfusion
    quiet := Fsm.noConfusion }

end

/-! ### The update of a stream -/

/-- RES is clear beyond the bytes in progress (R25, R32 e). -/
def ResidueClear (s : State) : Prop :=
  ∀ i, s.resn.toNat ≤ i → i < 16 → byteAt s.res i = 0

/-- KS is the keystream block of the bytes in progress (R25, R32 e). -/
def KeystreamHeld (s : State) : Prop := s.resn ≠ 0 → s.ks = s.encrypt s.ctr

theorem byteAt_setByteAt (b : Block) (i j : Nat) (v : Byte) (hj : j < 16) :
    byteAt (setByteAt b i v) j = if i = j then v else byteAt b j := by
  apply Option.some.inj
  rw [setByteAt, ← getElem?_eq_byteAt_blockOfBytes _ j (by simp) hj, List.getElem?_set,
    blockBytes_getElem? b j hj]
  split
  · rename_i hij
    rw [if_pos (by rw [blockBytes_length, hij]; exact hj)]
  · rfl

@[simp] theorem beginBlock_resn (s : State) : s.beginBlock.resn = s.resn := by
  obtain ⟨-, hb⟩ | ⟨-, hb⟩ := beginBlock_cases s
  · rw [hb]
  · rw [hb]

@[simp] theorem beginBlock_res (s : State) : s.beginBlock.res = s.res := by
  obtain ⟨-, hb⟩ | ⟨-, hb⟩ := beginBlock_cases s
  · rw [hb]
  · rw [hb]

theorem ResidueClear.absorb {s : State} (h : ResidueClear s) (c : Byte) :
    ResidueClear (s.absorb c) := by
  obtain ⟨-, ha⟩ | ⟨hlt, ha⟩ := absorb_cases c s
  · rw [ha]
    exact fun i _ _ => byteAt_zero i
  · have count : (s.resn + 1).toNat = s.resn.toNat + 1 := by
      rw [BitVec.toNat_add]
      exact Nat.mod_eq_of_lt (Nat.succ_lt_succ hlt)
    rw [ha]
    intro i hi h16
    change (s.resn + 1).toNat ≤ i at hi
    rw [byteAt_setByteAt _ _ i _ h16, if_neg (by omega), h i (by omega) h16]

theorem ResidueClear.updateBytes {s : State} (h : ResidueClear s) (d : Direction) (p : List Byte) :
    ResidueClear (s.updateBytes d p).1 := by
  induction p generalizing s with
  | nil => exact h
  | cons x xs ih =>
    have begun : ResidueClear s.beginBlock := by
      rw [ResidueClear, beginBlock_resn, beginBlock_res]
      exact h
    exact ih (begun.absorb _)

/-- A block is in progress after `beginBlock`, whether it was begun just now or before (R152). -/
theorem KeystreamHeld.beginBlock {s : State} (h : KeystreamHeld s) :
    s.beginBlock.ks = s.beginBlock.encrypt s.beginBlock.ctr := by
  obtain ⟨-, hb⟩ | ⟨hn, hb⟩ := beginBlock_cases s
  · rw [hb]
    rfl
  · rw [hb]
    exact h hn

theorem KeystreamHeld.updateBytes {s : State} (h : KeystreamHeld s) (d : Direction)
    (p : List Byte) : KeystreamHeld (s.updateBytes d p).1 := by
  induction p generalizing s with
  | nil => exact h
  | cons x xs ih =>
    refine ih fun _ => ?_
    have begun := h.beginBlock
    rw [State.updateByte]
    obtain ⟨-, ha⟩ | ⟨-, ha⟩ := absorb_cases
      (cipherByte d x (x ^^^ byteAt s.beginBlock.ks s.beginBlock.resn.toNat)) s.beginBlock
    · rw [ha]
      exact begun
    · rw [ha]
      exact begun

/-- In an open stream the byte count fixes RESN and the block counter (R32 e to g). -/
theorem Inv.counts_of_open {s : State} (h : Inv s) (opened : s.streamOpen) :
    s.ctlen.toNat % 16 = s.resn.toNat ∧
      (blockCounter s.ctr).toNat = 1 + blockCount s.ctlen.toNat := by
  obtain fresh | running := opened
  · obtain ⟨ctlen, resn, -, counter⟩ := h.fresh fresh
    rw [ctlen, resn, counter]
    exact ⟨rfl, rfl⟩
  · exact (h.running running).2

/-- The range test of an update is the test of the message's length (R113, R152). -/
theorem Inv.canIssue_iff {s : State} (h : Inv s) (opened : s.streamOpen) (n : Nat) :
    canIssue s.ctr (blocksNeeded s.resn.toNat n) ↔ s.ctlen.toNat + n ≤ 16 * (2 ^ 32 - 2) := by
  obtain ⟨count, counter⟩ := h.counts_of_open opened
  rw [canIssue, counter, counterTop, blocksNeeded_eq _ _ s.resn.isLt, ← count]
  simp only [blockCount]
  omega

theorem Inv.update {s : State} (h : Inv s) (opened : s.streamOpen) (d : Direction) (p : List Byte)
    (range : canIssue s.ctr (blocksNeeded s.resn.toNat p.length)) :
    Inv ((s.updateBytes d p).1.finishUpdate d p.length) := by
  have not_manual : s.fsm ≠ .uninit := fun manual => by simp [State.streamOpen, manual] at opened
  have hashed := h.hashed_of_open opened
  have bound := (h.canIssue_iff opened p.length).mp range
  obtain ⟨count, counter⟩ := h.counts_of_open opened
  have zeros := ResidueClear.updateBytes h.residue_zero d p
  have keystream := KeystreamHeld.updateBytes (fun some_ => (h.residue_open some_).2) d p
  have ctr_after := updateBytes_ctr d p s
  have resn_after := updateBytes_resn d p s
  obtain ⟨ctr, ks, res, resn, acc, frame⟩ := updateBytes_frame d p s
  rw [frame] at zeros keystream ctr_after resn_after ⊢
  change ctr = _ at ctr_after
  change resn.toNat = _ at resn_after
  have length : (s.ctlen + BitVec.ofNat 64 p.length).toNat = s.ctlen.toNat + p.length := by
    rw [BitVec.toNat_add, BitVec.toNat_ofNat]
    omega
  have counter_after : (blockCounter ctr).toNat = 1 + blockCount (s.ctlen.toNat + p.length) := by
    rw [ctr_after, blockCounter_inc32, toNat_blockCounter_add _ _ range, counter,
      blocksNeeded_eq _ _ s.resn.isLt, ← count]
    simp only [blockCount]
    omega
  exact { h with
    hash_absent := fun hashless => absurd (hashless.symm.trans hashed) Bool.false_ne_true
    message := fun _ => h.message not_manual
    counter_present := fun _ => by
      change 1 ≤ (blockCounter ctr).toNat
      omega
    counter_absent := fun unseeded =>
      absurd (unseeded.symm.trans (h.message not_manual).2.1) Bool.false_ne_true
    mask := fun _ => by
      change s.tmask = s.encrypt (seedBlock (nonceOf ctr))
      rw [ctr_after, nonceOf_inc32, h.mask not_manual]
    residue_zero := zeros
    residue_open := fun some_ => ⟨rfl, keystream some_⟩
    fresh := Fsm.noConfusion
    running := fun _ => by
      refine ⟨Option.some_ne_none d, ?_, ?_⟩
      · change (s.ctlen + BitVec.ofNat 64 p.length).toNat % 16 = resn.toNat
        rw [length, resn_after, ← count]
        omega
      · change (blockCounter ctr).toNat = 1 + blockCount (s.ctlen + BitVec.ofNat 64 p.length).toNat
        rw [length, counter_after]
    lengths := ⟨h.lengths.1, length.trans_le bound⟩
    quiet := Fsm.noConfusion }

/-! ### Steps -/

theorem Effect.keeps_inv {s u : State} {i : Instr} {st : Status} {out : List Byte} (h : Inv s)
    (hi : i.WellFormed) (effect : Effect s i st out u) : Inv u := by
  cases effect with
  | kexpRefused a key manual => exact h.clearKey manual
  | kexp a key manual ha => exact (h.clearKey manual).loadKey manual rfl a key ha hi
  | encb | decb => exact h
  | cinit nonce manual => exact h.seed manual nonce
  | cnextTooLong => exact h
  | cnext a manual seeded range => exact h.advance manual seeded _ range
  | ginit manual keyed => exact h.hashInit manual keyed
  | gfold block _ hashed => exact h.foldIn hashed block
  | gfoldn a blocks _ _ hashed => exact h.foldAggIn hashed blocks
  | gfinal block _ hashed => exact h.foldIn hashed block
  | gcmInitRefused => exact h.wiped
  | gcmInit a len key nonce aad ha => exact h.wiped.startMessage a len key nonce aad ha hi.1
  | gcmEncTooLong len p opened => exact h.abortStream opened
  | gcmEnc len p opened _ range => exact h.update opened .enc p range
  | gcmDecTooLong len p opened => exact h.abortStream opened
  | gcmDec len p opened _ range => exact h.update opened .dec p range
  | gcmFinal a _ opened => exact h.closed opened
  | gcmVerify a tag _ opened => exact h.closed opened
  | zeroize => exact h.wiped

theorem exec_keeps_inv {i : Instr} {s t : State} (h : Inv s) (hi : i.WellFormed)
    (ht : exec i s = .next t) : Inv t := by
  cases ending_of_exec ht with
  | illegal | refused => exact h.respond _ _
  | status => exact h.send _ _
  | passed _ _ effect => exact (effect.keeps_inv h hi).respond _ _

theorem raiseIllegal_keeps_inv {s : State} (h : Inv s) (op : BitVec 8) :
    Inv (s.raiseIllegal op) := by
  obtain ⟨-, hs⟩ | ⟨-, hs⟩ := raiseIllegal_cases op s
  · exact hs ▸ h.send _ _
  · exact hs ▸ h.respond _ _

/-- Settles O56: a step waits, resets, ends an undecoded header, or runs an instruction that is
well-formed because it was decoded. -/
theorem stepKeepsTheInvariants : Obligations.StepKeepsTheInvariants := by
  intro s t h ht
  obtain ⟨-, rfl⟩ | ⟨rest, -, rfl⟩ | ⟨bytes, rest, i, -, hd, he⟩ | ⟨bytes, rest, e, -, -, he⟩ :=
    step_cases s t ht
  · exact h
  · exact h.resetInput rest
  · exact exec_keeps_inv (h.offered rest) (decode_encodes_back bytes i hd).1 he
  · obtain ⟨op, rfl⟩ := endUndecoded_cases e _ t he
    exact raiseIllegal_keeps_inv (h.offered rest) op

/-- Settles O58, by induction on how the state was reached. -/
theorem reachableStatesHaveTheInvariants : Obligations.ReachableStatesHaveTheInvariants := by
  intro s reached
  induction reached with
  | start b legal => exact inv_resetOf b legal
  | offered s events _ ih => exact ih.offered events
  | stepped s t _ taken ih => exact stepKeepsTheInvariants s t ih taken

/-- Settles O48: the update is refused as too long exactly by its range test, which is the test of
the message's length. -/
theorem messageLimitIsExact : Obligations.MessageLimitIsExact := by
  intro d p s t h opened dir _ ht
  rw [exec_updateInstr] at ht
  cases ht
  rw [← Nat.not_le, ← h.canIssue_iff opened]
  obtain ⟨refused, -⟩ | ⟨-, -, long, hu⟩ | ⟨-, -, range, hu⟩ := update_cases d p s
  · exact absurd refused (by simp only [opened, dir, not_true_eq_false, or_self, not_false_eq_true])
  · rw [hu]
    exact iff_of_true rfl long
  · rw [hu]
    exact iff_of_false (by simp) (not_not_intro range)

end Sys2Proof.Machine

namespace Sys2Proof.Machine

/-! The statuses (spec/60_exceptions.md R183, R190) and the lengths of the outputs
(spec/30_encoding.md R66). -/

theorem verdict_eq_of_wellFormed (a : BitVec 8) (tag : List Byte) (s : State)
    (ha : tagLengthLegal a) (hlen : tag.length = a.toNat) :
    verdict a tag s = if tagCause s (.gcmVerify a tag) then .tagMismatch else .ok := by
  rw [verdict_eq a tag s ha.2 hlen]
  by_cases same : tag = tagBytes a.toNat s.closeTag
  · simp [tagCause, ← same]
  · simp [tagCause, same]

/-- After the first two tests the causes left are those of R184, R186 and R187. -/
def lateStatus (i : Instr) (s : State) : Status :=
  if keyLengthCause i then .invalidKeyLength
  else if tooLongCause s i then .messageTooLong
  else if tagCause s i then .tagMismatch
  else .ok

theorem reportedStatus_of_illegal {i : Instr} {s : State} (h : operandLegal s.build i = false) :
    reportedStatus i s = .illegalCommand := if_pos h

theorem reportedStatus_of_legal {i : Instr} {s : State} (h : operandLegal s.build i = true) :
    reportedStatus i s = if invalidStateCause s i then .invalidState else lateStatus i s :=
  if_neg (by simp [h])

theorem Effect.status_eq {s u : State} {i : Instr} {st : Status} {out : List Byte}
    (hi : i.WellFormed) (h : Effect s i st out u) : st = lateStatus i s := by
  cases h with
  | kexpRefused a key _ ha => simp [lateStatus, keyLengthCause, ha]
  | kexp a key _ ha => simp [lateStatus, keyLengthCause, ha, tooLongCause, tagCause]
  | gcmInitRefused a len key nonce aad ha => simp [lateStatus, keyLengthCause, ha]
  | gcmInit a len key nonce aad ha => simp [lateStatus, keyLengthCause, ha, tooLongCause, tagCause]
  | cnextTooLong a _ _ long => simp [lateStatus, keyLengthCause, tooLongCause, Nat.not_le.mp long]
  | cnext a _ _ range =>
    simp [lateStatus, keyLengthCause, tooLongCause, Nat.not_lt.mpr range, tagCause]
  | gcmEncTooLong len p _ _ long =>
    simp [lateStatus, keyLengthCause, tooLongCause, Nat.not_le.mp long]
  | gcmEnc len p _ _ range =>
    simp [lateStatus, keyLengthCause, tooLongCause, Nat.not_lt.mpr range, tagCause]
  | gcmDecTooLong len p _ _ long =>
    simp [lateStatus, keyLengthCause, tooLongCause, Nat.not_le.mp long]
  | gcmDec len p _ _ range =>
    simp [lateStatus, keyLengthCause, tooLongCause, Nat.not_lt.mpr range, tagCause]
  | gcmVerify a tag ha => exact verdict_eq_of_wellFormed a tag s ha hi
  | _ => rfl

theorem Effect.status_possible {s u : State} {i : Instr} {st : Status} {out : List Byte}
    (h : Effect s i st out u) : st ∈ possibleStatuses i := by
  cases h with
  | gcmVerify a tag =>
    rw [verdict]
    split
    · simp [possibleStatuses]
    · simp [possibleStatuses]
  | _ => simp [possibleStatuses]

/-- Only a command with an operand of bounded range can find it illegal (R68, R183). -/
theorem illegal_possible {b : Build} {i : Instr} (h : operandLegal b i = false) :
    .illegalCommand ∈ possibleStatuses i := by
  cases i with
  | gcmInit => exact absurd h (by simp [operandLegal])
  | _ => simp [possibleStatuses]

theorem invalidState_possible {s : State} {i : Instr} (h : invalidStateCause s i = true) :
    .invalidState ∈ possibleStatuses i := by
  cases i with
  | gcmInit | rdst | zeroize => exact absurd h (by simp [invalidStateCause])
  | _ => simp [possibleStatuses]

/-- What an ending says of its response, latched but for RDST's, and of the ports (R26, R66). -/
theorem Ending.response {s t : State} {i : Instr} (hi : i.WellFormed) (h : Ending s i t) :
    ∃ r : Response, t.outbox = s.outbox ++ [r] ∧ r.status = reportedStatus i s ∧
      r.status ∈ possibleStatuses i ∧ t.lastst = (if i = .rdst then s.lastst else r.status) ∧
      t.inbox = s.inbox ∧ t.build = s.build := by
  cases h with
  | illegal cause =>
    have ne_rdst : i ≠ .rdst := by
      rintro rfl
      cases cause
    exact ⟨⟨.illegalCommand, []⟩, rfl, (reportedStatus_of_illegal cause).symm,
      illegal_possible cause, (if_neg ne_rdst).symm, rfl, rfl⟩
  | refused legal cause =>
    have ne_rdst : i ≠ .rdst := by
      rintro rfl
      cases cause
    exact ⟨⟨.invalidState, []⟩, rfl, ((reportedStatus_of_legal legal).trans (if_pos cause)).symm,
      invalidState_possible cause, (if_neg ne_rdst).symm, rfl, rfl⟩
  | status hi =>
    subst hi
    exact ⟨⟨.ok, s.statusBytes⟩, rfl, rfl, List.mem_cons_self, rfl, rfl, rfl⟩
  | @passed st out u legal free effect =>
    obtain ⟨inbox, outbox, build⟩ := effect.ports
    have reported : reportedStatus i s = lateStatus i s :=
      (reportedStatus_of_legal legal).trans (if_neg (by simp [free]))
    exact ⟨⟨st, out⟩, by rw [State.respond_outbox, outbox],
      (effect.status_eq hi).trans reported.symm, effect.status_possible,
      (if_neg effect.ne_rdst).symm, inbox, build⟩

/-- Settles O50: each ending reports the first cause that holds. -/
theorem everyCommandEndsByPriority : Obligations.EveryCommandEndsByPriority := by
  intro i s hi
  obtain ⟨t, ht, ending⟩ := exec_ending i s
  obtain ⟨r, response⟩ := ending.response hi
  exact ⟨t, r, ht, response⟩

theorem flatMap_blockBytes_length (bs : List Block) (f : Block → Block) :
    (bs.flatMap fun b => blockBytes (f b)).length = 16 * bs.length := by
  rw [← List.flatMap_map]
  exact (bytesOfBlocks_length (bs.map f)).trans (by rw [List.length_map])

theorem tagBytes_length (t : Nat) (tag : Block) (ht : t ≤ 16) : (tagBytes t tag).length = t := by
  rw [tagBytes, List.length_take, blockBytes_length, min_eq_left ht]

theorem Effect.output_length {s u : State} {i : Instr} {st : Status} {out : List Byte}
    (hi : i.WellFormed) (h : Effect s i st out u) :
    out.length = if st = .ok then okOutlen i else 0 := by
  cases h with
  | encb a blocks => exact (flatMap_blockBytes_length _ _).trans (congrArg (16 * ·) hi)
  | decb a blocks => exact (flatMap_blockBytes_length _ _).trans (congrArg (16 * ·) hi)
  | cnext a =>
    have count : (issuedBlocks s.ctr a.toNat).length = a.toNat := by simp [issuedBlocks]
    rw [bytesOfBlocks_length, count]
    exact (if_pos rfl).symm
  | gfinal block => exact (blockBytes_length _).trans (if_pos rfl).symm
  | gcmEnc len p => exact (updateBytes_length _ _ _).trans hi
  | gcmDec len p => exact (updateBytes_length _ _ _).trans hi
  | gcmFinal a ha => exact tagBytes_length _ _ ha.2
  | gcmVerify a tag => exact (ite_self 0).symm
  | _ => rfl

theorem statusBytes_length (s : State) : s.statusBytes.length = 24 := by
  simp only [State.statusBytes, List.length_append, beBytes_length]

theorem Ending.output_length {s t : State} {i : Instr} (hi : i.WellFormed) (h : Ending s i t) :
    ∃ r : Response, t.outbox = s.outbox ++ [r] ∧
      r.out.length = if r.status = .ok then okOutlen i else 0 := by
  cases h with
  | illegal => exact ⟨⟨.illegalCommand, []⟩, rfl, rfl⟩
  | refused => exact ⟨⟨.invalidState, []⟩, rfl, rfl⟩
  | status hi =>
    subst hi
    exact ⟨⟨.ok, s.statusBytes⟩, rfl, (statusBytes_length s).trans (if_pos rfl).symm⟩
  | @passed st out u _ _ effect =>
    obtain ⟨-, outbox, -⟩ := effect.ports
    exact ⟨⟨st, out⟩, by rw [State.respond_outbox, outbox], effect.output_length hi⟩

theorem responseHeader_fields (r : Response) :
    (responseHeader r).extractLsb' 56 8 = statusCode r.status ∧
    (responseHeader r).extractLsb' 48 8 = 0#8 ∧
    (responseHeader r).extractLsb' 0 48 = BitVec.ofNat 48 r.out.length := by
  simp (disch := decide) only [responseHeader, BitVec.extractLsb'_append_eq_of_le,
    BitVec.extractLsb'_append_eq_right, BitVec.extractLsb'_eq_self, Nat.reduceSub, and_self]

/-- Settles O54: the header's fields stand where they were put, and each ending's output has the
length of its command's row. -/
theorem responsesHaveTheTabledLength : Obligations.ResponsesHaveTheTabledLength := by
  refine ⟨rfl, fun r hr => ?_, fun i s hi => ?_⟩
  · obtain ⟨status, zero, outlen⟩ := responseHeader_fields r
    refine ⟨status, zero, ?_, rfl⟩
    rw [outlen, BitVec.toNat_ofNat, Nat.mod_eq_of_lt hr]
  · obtain ⟨t, ht, ending⟩ := exec_ending i s
    obtain ⟨r, response⟩ := ending.output_length hi
    exact ⟨t, r, ht, response⟩

/-! After the abort of a message (spec/60_exceptions.md R186). -/

/-- Only GCM_INIT and ZEROIZE leave FINAL (R150). -/
theorem Effect.fsm_final {s u : State} {i : Instr} {st : Status} {out : List Byte}
    (h : Effect s i st out u) (final : s.fsm = .final)
    (hi : instrOpcode i ≠ .gcmInit ∧ instrOpcode i ≠ .zeroize) : u.fsm = .final := by
  cases h with
  | encb | decb => exact final
  | gcmInitRefused | gcmInit => exact absurd rfl hi.1
  | zeroize => exact absurd rfl hi.2
  | gcmFinal | gcmVerify | gcmEncTooLong | gcmDecTooLong => rfl
  | gcmEnc len p opened => simp [State.streamOpen, final] at opened
  | gcmDec len p opened => simp [State.streamOpen, final] at opened
  | kexpRefused _ _ manual | kexp _ _ manual | cinit _ manual | cnextTooLong _ manual
  | cnext _ manual | ginit manual | gfold _ manual | gfoldn _ _ _ manual | gfinal _ manual =>
    simp [State.manual, final] at manual

theorem exec_fsm_final {s t : State} {i : Instr} (ht : exec i s = .next t) (final : s.fsm = .final)
    (hi : instrOpcode i ≠ .gcmInit ∧ instrOpcode i ≠ .zeroize) : t.fsm = .final := by
  cases ending_of_exec ht with
  | illegal | refused | status => exact final
  | passed _ _ effect => exact effect.fsm_final final hi

theorem runCommands_cons (i : Instr) (is : List Instr) (s t : State) (ht : exec i s = .next t) :
    runCommands (i :: is) s = runCommands is t := by
  rw [runCommands, ht]

theorem runCommands_fsm_final (is : List Instr) (s t : State) (ht : runCommands is s = .next t)
    (final : s.fsm = .final) (hi : ∀ i ∈ is, instrOpcode i ≠ .gcmInit ∧ instrOpcode i ≠ .zeroize) :
    t.fsm = .final := by
  induction is generalizing s with
  | nil => cases ht; exact final
  | cons i is ih =>
    rw [List.forall_mem_cons] at hi
    obtain ⟨s', hs', -⟩ := exec_ending i s
    rw [runCommands_cons i is s s' hs'] at ht
    exact ih s' ht (exec_fsm_final hs' final hi.1) hi.2

theorem fsm_final_of_messageTooLong (d : Direction) (p : List Byte) (s t : State)
    (ht : exec (updateInstr d p) s = .next t) (long : t.lastst = .messageTooLong) :
    t.fsm = .final := by
  rw [exec_updateInstr] at ht
  cases ht
  obtain ⟨-, hu⟩ | ⟨-, -, -, hu⟩ | ⟨-, -, -, hu⟩ := update_cases d p s
  · rw [hu] at long
    cases long
  · rw [hu]
    rfl
  · rw [hu] at long
    cases long

/-- Settles O52: the abort leaves FINAL, the run does not leave it, and no tag is given there. -/
theorem abortedStreamYieldsNoTag : Obligations.AbortedStreamYieldsNoTag := by
  intro d p s t u is ht long hi hu
  have final := runCommands_fsm_final is t u hu (fsm_final_of_messageTooLong d p s t ht long) hi
  refine ⟨final, fun a tag h1 h16 _ => ?_⟩
  rw [exec_gcmFinal, exec_gcmVerify]
  exact ⟨closeCommand_of_no_message a _ u h1 h16 (.inr final),
    closeCommand_of_no_message a _ u h1 h16 (.inr final)⟩

/-! The commands that return no data (spec/10_state.md R30). -/

/-- The response of a command that returns nothing but a status; RDST's is the status bytes. -/
def silentResponse (i : Instr) (s : State) : Response :=
  if operandLegal s.build i = false then ⟨.illegalCommand, []⟩
  else if invalidStateCause s i then ⟨.invalidState, []⟩
  else if i = .rdst then ⟨.ok, s.statusBytes⟩
  else ⟨if keyLengthCause i then .invalidKeyLength else .ok, []⟩

theorem Effect.silent {s u : State} {i : Instr} {st : Status} {out : List Byte}
    (h : Effect s i st out u)
    (hi : instrOpcode i ∈
      [Opcode.kexp, .cinit, .ginit, .gfold, .gfoldn, .gcmInit, .rdst, .zeroize]) :
    st = (if keyLengthCause i then .invalidKeyLength else .ok) ∧ out = [] := by
  cases h with
  | kexpRefused a key _ ha => simp [keyLengthCause, ha]
  | kexp a key _ ha => simp [keyLengthCause, ha]
  | gcmInitRefused a len key nonce aad ha => simp [keyLengthCause, ha]
  | gcmInit a len key nonce aad ha => simp [keyLengthCause, ha]
  | cinit | ginit | gfold | gfoldn | zeroize => exact ⟨rfl, rfl⟩
  | encb | decb | cnextTooLong | cnext | gfinal | gcmEncTooLong | gcmEnc | gcmDecTooLong | gcmDec
  | gcmFinal | gcmVerify => simp [instrOpcode] at hi

theorem exec_silent {i : Instr} {s t : State} (ht : exec i s = .next t)
    (hi : instrOpcode i ∈
      [Opcode.kexp, .cinit, .ginit, .gfold, .gfoldn, .gcmInit, .rdst, .zeroize]) :
    t.outbox = s.outbox ++ [silentResponse i s] := by
  cases ending_of_exec ht with
  | illegal cause => simp [silentResponse, cause]
  | refused legal cause => simp [silentResponse, legal, cause]
  | status hi =>
    subst hi
    rfl
  | passed legal free effect =>
    obtain ⟨-, outbox, -⟩ := effect.ports
    obtain ⟨rfl, rfl⟩ := effect.silent hi
    simp [silentResponse, legal, free, effect.ne_rdst, outbox]

/-- The response of CNEXT. -/
def cnextResponse (a : BitVec 8) (fsm : Fsm) (cv : Bool) (ctr : Block) : Response :=
  if ¬ issueCountLegal a then ⟨.illegalCommand, []⟩
  else if fsm ≠ .uninit ∨ cv = false then ⟨.invalidState, []⟩
  else if ¬ canIssue ctr a.toNat then ⟨.messageTooLong, []⟩
  else ⟨.ok, bytesOfBlocks (issuedBlocks ctr a.toNat)⟩

theorem exec_cnext_outbox {a : BitVec 8} {s t : State} (ht : exec (.cnext a) s = .next t) :
    t.outbox = s.outbox ++ [cnextResponse a s.fsm s.cv s.ctr] := by
  cases ending_of_exec ht with
  | illegal cause =>
    have ha : ¬ issueCountLegal a := of_decide_eq_false cause
    simp only [cnextResponse, ha, not_false_eq_true, if_true, State.respond_outbox]
  | refused legal cause =>
    have ha : issueCountLegal a := of_decide_eq_true legal
    have state : s.fsm ≠ .uninit ∨ s.cv = false := by simpa [invalidStateCause] using cause
    simp only [cnextResponse, ha, state, not_true_eq_false, if_false, if_true, State.respond_outbox]
  | status hi => cases hi
  | passed legal free effect =>
    have ha : issueCountLegal a := of_decide_eq_true legal
    cases effect with
    | cnextTooLong _ manual seeded long =>
      simp [cnextResponse, ha, show s.fsm = .uninit from manual, seeded, long, State.respond_outbox]
    | cnext _ manual seeded range =>
      simp [cnextResponse, ha, show s.fsm = .uninit from manual, seeded, range,
        State.respond_outbox]

theorem exec_gcmVerify_outbox {a : BitVec 8} {tag : List Byte} {s t : State}
    (ht : exec (.gcmVerify a tag) s = .next t) :
    ∃ st, t.outbox = s.outbox ++ [{ status := st, out := [] }] := by
  cases ending_of_exec ht with
  | illegal | refused => exact ⟨_, rfl⟩
  | status hi => cases hi
  | passed _ _ effect =>
    cases effect
    exact ⟨_, rfl⟩

theorem operandLegal_congr {b c : Build} (h : b.k = c.k) (i : Instr) :
    operandLegal b i = operandLegal c i := by
  cases i with
  | gfoldn => simp [operandLegal, h]
  | _ => rfl

/-- Settles O49: the responses are functions of the visible elements, for CNEXT of FSM, CV and CTR,
and GCM_VERIFY's has no byte. -/
theorem secretsDoNotShow : Obligations.SecretsDoNotShow := by
  refine ⟨?_, ?_, fun a tag s t ht => exec_gcmVerify_outbox ht⟩
  · intro i s t s' t' hi lastst fsm dir kv cv gv klen nr resn k tier aadlen ctlen hs ht hs' ht'
    have causes : invalidStateCause s i = invalidStateCause t i := by
      cases i <;> simp only [invalidStateCause, fsm, dir, kv, cv, gv]
    have word : s.statusBytes = t.statusBytes := by
      simp only [State.statusBytes, statusWord, lastst, fsm, dir, kv, cv, gv, klen, nr, resn, k,
        tier, aadlen, ctlen]
    rw [exec_silent hs' hi, exec_silent ht' hi, hs, ht, silentResponse, silentResponse,
      operandLegal_congr k i, causes, word]
  · intro a s t s' t' fsm cv ctr hs ht hs' ht'
    rw [exec_cnext_outbox hs', exec_cnext_outbox ht', hs, ht, fsm, cv, ctr]

end Sys2Proof.Machine

namespace Sys2Proof.Machine

/-! What an update of bytes reads and writes: the schedule, H and the stream's registers. The other
fields can be exchanged under it. -/

/-- The state `t` with the schedule, the subkey and the stream's registers of `s`. -/
def State.within (t s : State) : State :=
  { t with
    erk := s.erk, nr := s.nr, h := s.h
    ctr := s.ctr, ks := s.ks, res := s.res, resn := s.resn, acc := s.acc }

theorem beginBlock_within (t s : State) : (t.within s).beginBlock = t.within s.beginBlock := by
  have resn : (t.within s).resn = s.resn := rfl
  rw [State.beginBlock, State.beginBlock, resn]
  split
  · rfl
  · rfl

theorem absorb_within (t s : State) (c : Byte) : (t.within s).absorb c = t.within (s.absorb c) := by
  have resn : (t.within s).resn = s.resn := rfl
  rw [State.absorb, State.absorb, resn]
  split
  · rfl
  · rfl

theorem updateByte_within (d : Direction) (t s : State) (x : Byte) :
    (t.within s).updateByte d x = (t.within (s.updateByte d x).1, (s.updateByte d x).2) := by
  simp only [State.updateByte, beginBlock_within, absorb_within]
  rfl

theorem updateBytes_within (d : Direction) (p : List Byte) (t s : State) :
    (t.within s).updateBytes d p = (t.within (s.updateBytes d p).1, (s.updateBytes d p).2) := by
  induction p generalizing s with
  | nil => rfl
  | cons x xs ih => simp only [updateBytes_cons, updateByte_within, ih]

/-- An update of bytes writes within its own state only. -/
theorem within_updateBytes (d : Direction) (p : List Byte) (s : State) :
    s.within (s.updateBytes d p).1 = (s.updateBytes d p).1 := by
  have h := congrArg Prod.fst (updateBytes_within d p s s)
  exact h.symm

/-! ### The command port does not show -/

theorem updateBytes_offered (d : Direction) (p : List Byte) (s : State) (x : List HostEvent) :
    ({ s with inbox := x } : State).updateBytes d p =
      ({ (s.updateBytes d p).1 with inbox := x }, (s.updateBytes d p).2) := by
  have h := updateBytes_within d p { s with inbox := x } s
  rw [← within_updateBytes d p s]
  exact h

theorem Effect.offered {s u : State} {i : Instr} {st : Status} {out : List Byte}
    (h : Effect s i st out u) (x : List HostEvent) :
    Effect { s with inbox := x } i st out { u with inbox := x } := by
  cases h with
  | kexpRefused a key manual ha => exact .kexpRefused a key manual ha
  | kexp a key manual ha => exact .kexp a key manual ha
  | encb a blocks keyed => exact .encb a blocks keyed
  | decb a blocks keyed => exact .decb a blocks keyed
  | cinit nonce manual => exact .cinit nonce manual
  | cnextTooLong a manual seeded long => exact .cnextTooLong a manual seeded long
  | cnext a manual seeded range => exact .cnext a manual seeded range
  | ginit manual keyed => exact .ginit manual keyed
  | gfold block manual hashed => exact .gfold block manual hashed
  | gfoldn a blocks ha manual hashed => exact .gfoldn a blocks ha manual hashed
  | gfinal block manual hashed => exact .gfinal block manual hashed
  | gcmInitRefused a len key nonce aad ha => exact .gcmInitRefused a len key nonce aad ha
  | gcmInit a len key nonce aad ha => exact .gcmInit a len key nonce aad ha
  | gcmEncTooLong len p opened dir long => exact .gcmEncTooLong len p opened dir long
  | gcmEnc len p opened dir range =>
    have effect := Effect.gcmEnc (s := { s with inbox := x }) len p opened dir range
    rw [updateBytes_offered] at effect
    exact effect
  | gcmDecTooLong len p opened dir long => exact .gcmDecTooLong len p opened dir long
  | gcmDec len p opened dir range =>
    have effect := Effect.gcmDec (s := { s with inbox := x }) len p opened dir range
    rw [updateBytes_offered] at effect
    exact effect
  | gcmFinal a ha opened => exact .gcmFinal a ha opened
  | gcmVerify a tag ha opened => exact .gcmVerify a tag ha opened
  | zeroize => exact .zeroize

/-- What is offered next does not change what a command does. -/
theorem exec_offered {i : Instr} {s t : State} (ht : exec i s = .next t) (x : List HostEvent) :
    exec i { s with inbox := x } = .next { t with inbox := x } := by
  have tests := exec_endsByCause i { s with inbox := x }
  cases ending_of_exec ht with
  | illegal cause => exact tests.eq_illegal cause
  | refused legal cause => exact tests.eq_refused legal cause
  | status hi =>
    subst hi
    rfl
  | passed legal free effect => exact (effect.offered x).exec_eq legal

theorem run_succ_of_step (M : Host.Core) (k : Nat) (s t : M.State) (h : M.step s = .next t) :
    M.run (k + 1) s = M.run k t := by
  simp only [Host.Core.run, h]

/-- A command leaves the command port and sends one response. -/
theorem Ending.ports {s t : State} {i : Instr} (h : Ending s i t) :
    t.inbox = s.inbox ∧ t.outbox.length = s.outbox.length + 1 := by
  cases h with
  | illegal | refused | status => exact ⟨rfl, List.length_append⟩
  | passed _ _ effect =>
    obtain ⟨inbox, outbox, -⟩ := effect.ports
    exact ⟨inbox, by rw [State.respond_outbox, outbox]; exact List.length_append⟩

/-- Settles O59, by induction on the commands: the step takes the first packet and runs its
command, which does the same whether the others stand behind it or not. -/
theorem offeredCommandsAreAnsweredInOrder : Obligations.OfferedCommandsAreAnsweredInOrder := by
  intro is
  induction is with
  | nil =>
    intro s _ hs
    have empty : ({ s with inbox := [] } : State) = s := by rw [← List.map_nil, ← hs]
    exact ⟨s, rfl, by rw [empty]; rfl, rfl⟩
  | cons i is ih =>
    intro s hi hs
    rw [List.forall_mem_cons] at hi
    obtain ⟨wellFormed, rest⟩ := hi
    obtain ⟨u, hu, ending⟩ := exec_ending i { s with inbox := [] }
    obtain ⟨inbox, outbox⟩ := ending.ports
    have taken := step_of_decode_ok s _ _ i hs (decode_encode i wellFormed)
    rw [exec_offered hu (is.map fun i => .packet (encode i))] at taken
    obtain ⟨t, ran, together, count⟩ :=
      ih { u with inbox := is.map fun i => .packet (encode i) } rest rfl
    have inbox : u.inbox = [] := inbox
    have alone : ({ u with inbox := [] } : State) = u := by rw [← inbox]
    refine ⟨t, ?_, ?_, ?_⟩
    · rw [List.length_cons, run_succ_of_step Sys2Proof.core _ s _ taken, ran]
    · rw [runCommands_cons i is _ u hu, ← alone, ← together]
    · rw [count, List.length_cons]
      change u.outbox.length + is.length = _
      rw [outbox]
      change s.outbox.length + 1 + is.length = _
      omega

/-! ### The build shows in two bytes of RDST and one operand only (spec/00_scope.md R9) -/

/-- The same engine with another build, whose power table and lane registers differ with it. -/
def State.rebuilt (b : Build) (table lanes : List Block) (s : State) : State :=
  { s with build := b, hpow := table, lanes := lanes }

theorem updateBytes_rebuilt (b : Build) (table lanes : List Block) (d : Direction) (p : List Byte)
    (s : State) :
    (s.rebuilt b table lanes).updateBytes d p =
      ((s.updateBytes d p).1.rebuilt b table lanes, (s.updateBytes d p).2) := by
  have h := updateBytes_within d p (s.rebuilt b table lanes) s
  rw [← within_updateBytes d p s]
  exact h

/-- Both builds' tables hold the powers of H, so GFOLDN folds alike under either (R140). -/
theorem foldAgg_congr {k k' : Nat} {table table' : List Block} {h : Block} (acc : Block)
    (blocks : List Block) (held : powersHeld k table h) (held' : powersHeld k' table' h)
    (hne : blocks ≠ []) (hk : blocks.length ≤ k) (hk' : blocks.length ≤ k') :
    foldAgg table acc blocks = foldAgg table' acc blocks := by
  rw [foldAgg_eq_foldBlocks k table h acc blocks held hne hk,
    foldAgg_eq_foldBlocks k' table' h acc blocks held' hne hk']

section
variable {s u : State} {i : Instr} {st : Status} {out : List Byte} {b : Build}
  {table lanes : List Block}

theorem Effect.rebuilt (h : Effect s i st out u) (hi : i.WellFormed)
    (legal : operandLegal b i = true)
    (tables : s.gv = true → powersHeld s.build.k s.hpow s.h ∧ powersHeld b.k table s.h) :
    ∃ table' lanes', Effect (s.rebuilt b table lanes) i st out (u.rebuilt b table' lanes') := by
  cases h with
  | kexpRefused a key manual ha => exact ⟨_, _, .kexpRefused a key manual ha⟩
  | kexp a key manual ha => exact ⟨_, _, .kexp a key manual ha⟩
  | encb a blocks keyed => exact ⟨_, _, .encb a blocks keyed⟩
  | decb a blocks keyed => exact ⟨_, _, .decb a blocks keyed⟩
  | cinit nonce manual => exact ⟨_, _, .cinit nonce manual⟩
  | cnextTooLong a manual seeded long => exact ⟨_, _, .cnextTooLong a manual seeded long⟩
  | cnext a manual seeded range => exact ⟨_, _, .cnext a manual seeded range⟩
  | ginit manual keyed => exact ⟨_, _, .ginit manual keyed⟩
  | gfold block manual hashed => exact ⟨_, _, .gfold block manual hashed⟩
  | gfoldn a blocks ha manual hashed =>
    obtain ⟨held, held'⟩ := tables hashed
    have ha' : foldCountLegal b a := of_decide_eq_true legal
    have count : blocks.length = a.toNat := hi
    have acc := foldAgg_congr s.acc blocks held' held
      (List.length_pos_iff.mp (count ▸ ha.1)) (count ▸ ha'.2) (count ▸ ha.2)
    refine ⟨table, lanes, ?_⟩
    rw [State.foldAggIn, ← acc]
    exact .gfoldn (s := s.rebuilt b table lanes) a blocks ha' manual hashed
  | gfinal block manual hashed => exact ⟨_, _, .gfinal block manual hashed⟩
  | gcmInitRefused a len key nonce aad ha => exact ⟨_, _, .gcmInitRefused a len key nonce aad ha⟩
  | gcmInit a len key nonce aad ha => exact ⟨_, _, .gcmInit a len key nonce aad ha⟩
  | gcmEncTooLong len p opened dir long => exact ⟨_, _, .gcmEncTooLong len p opened dir long⟩
  | gcmEnc len p opened dir range =>
    have effect := Effect.gcmEnc (s := s.rebuilt b table lanes) len p opened dir range
    rw [updateBytes_rebuilt] at effect
    exact ⟨table, lanes, effect⟩
  | gcmDecTooLong len p opened dir long => exact ⟨_, _, .gcmDecTooLong len p opened dir long⟩
  | gcmDec len p opened dir range =>
    have effect := Effect.gcmDec (s := s.rebuilt b table lanes) len p opened dir range
    rw [updateBytes_rebuilt] at effect
    exact ⟨table, lanes, effect⟩
  | gcmFinal a ha opened => exact ⟨_, _, .gcmFinal a ha opened⟩
  | gcmVerify a tag ha opened => exact ⟨_, _, .gcmVerify a tag ha opened⟩
  | zeroize => exact ⟨_, _, .zeroize⟩

/-- A command whose operand both builds take alike leaves them alike, with the same response. -/
theorem exec_rebuilt (hi : i.WellFormed) (ne_rdst : i ≠ .rdst)
    (operand : operandLegal s.build i = operandLegal b i)
    (tables : s.gv = true → powersHeld s.build.k s.hpow s.h ∧ powersHeld b.k table s.h) :
    ∃ s' table' lanes', exec i s = .next s' ∧
      exec i (s.rebuilt b table lanes) = .next (s'.rebuilt b table' lanes') ∧
      s'.build = s.build := by
  obtain ⟨s', hs', ending⟩ := exec_ending i s
  have tests := exec_endsByCause i (s.rebuilt b table lanes)
  cases ending with
  | illegal cause => exact ⟨_, table, lanes, hs', tests.eq_illegal (operand.symm.trans cause), rfl⟩
  | refused legal cause =>
    have same_cause : invalidStateCause (s.rebuilt b table lanes) i = invalidStateCause s i := by
      cases i <;> rfl
    exact ⟨_, table, lanes, hs',
      tests.eq_refused (operand.symm.trans legal) (same_cause.trans cause), rfl⟩
  | status hi => exact absurd hi ne_rdst
  | passed legal free effect =>
    have legal' := operand.symm.trans legal
    obtain ⟨table', lanes', effect'⟩ := effect.rebuilt (lanes := lanes) hi legal' tables
    obtain ⟨-, -, build⟩ := effect.ports
    exact ⟨_, table', lanes', hs', effect'.exec_eq legal', build⟩

end

theorem gfoldn_of_operandLegal_ne {b c : Build} {i : Instr}
    (h : operandLegal b i ≠ operandLegal c i) : instrOpcode i = .gfoldn := by
  cases i with
  | gfoldn => rfl
  | _ => exact absurd rfl h

/-- The bytes of two words side by side are those of the one and then those of the other. -/
theorem beBytes_append {a c : Nat} (m n : Nat) (x : BitVec a) (y : BitVec c) (ha : 2 ^ a = 256 ^ m)
    (hc : 2 ^ c = 256 ^ n) :
    beBytes (m + n) (x ++ y).toNat = beBytes m x.toNat ++ beBytes n y.toNat := by
  have value : (x ++ y).toNat = 256 ^ n * x.toNat + y.toNat := by
    rw [BitVec.toNat_append, ← Nat.shiftLeft_add_eq_or_of_lt y.isLt, Nat.shiftLeft_eq, hc,
      Nat.mul_comm]
  rw [value, beBytes_add m n _ _ (ha ▸ x.isLt) (hc ▸ y.isLt)]

/-- The fields of the status word above the bytes of K and TIER (R171). -/
def statusTop (s : State) : BitVec 40 :=
  statusCode s.lastst ++ fsmCode s.fsm ++ dirCode s.dir ++ flagBit s.kv ++ flagBit s.cv
    ++ flagBit s.gv ++ 0#1 ++ s.klen ++ s.nr ++ (0#4 ++ s.resn)

theorem beBytes_one (v : BitVec 8) : beBytes 1 v.toNat = [v] := by
  simp [beBytes]

/-- The status bytes with the bytes of K and TIER, numbers 5 and 6, shown apart. -/
theorem statusBytes_eq (s : State) :
    s.statusBytes = beBytes 5 (statusTop s).toNat ++ BitVec.ofNat 8 s.build.k
      :: tierCode s.build.tier
      :: 0 :: (beBytes 8 s.aadlen.toNat ++ beBytes 8 s.ctlen.toNat) := by
  have word : statusWord s =
      statusTop s ++ BitVec.ofNat 8 s.build.k ++ tierCode s.build.tier ++ 0#8 := rfl
  have bytes : beBytes 8 (statusWord s).toNat = beBytes 5 (statusTop s).toNat
      ++ [BitVec.ofNat 8 s.build.k] ++ [tierCode s.build.tier] ++ [0#8] := by
    rw [word, beBytes_append 7 1 _ _ (by decide) (by decide),
      beBytes_append 6 1 _ _ (by decide) (by decide),
      beBytes_append 5 1 _ _ (by decide) (by decide),
      beBytes_one, beBytes_one, beBytes_one]
  rw [State.statusBytes, bytes]
  simp

theorem getElem?_two_apart {α : Type} (l r : List α) (x y x' y' : α) (j : Nat) (hx : j ≠ l.length)
    (hy : j ≠ l.length + 1) : (l ++ x :: y :: r)[j]? = (l ++ x' :: y' :: r)[j]? := by
  by_cases hj : j < l.length
  · rw [List.getElem?_append_left hj, List.getElem?_append_left hj]
  · obtain ⟨n, hn⟩ : ∃ n, j - l.length = n + 2 := ⟨j - l.length - 2, by omega⟩
    rw [List.getElem?_append_right (by omega), List.getElem?_append_right (by omega), hn]
    rfl

theorem statusBytes_rebuilt (b : Build) (table lanes : List Block) (s : State) (j : Nat)
    (h5 : j ≠ 5) (h6 : j ≠ 6) : s.statusBytes[j]? = (s.rebuilt b table lanes).statusBytes[j]? := by
  have top : statusTop (s.rebuilt b table lanes) = statusTop s := rfl
  rw [statusBytes_eq, statusBytes_eq, top]
  exact getElem?_two_apart _ _ _ _ _ _ j (by rwa [beBytes_length]) (by rwa [beBytes_length])

/-- Settles O55: the effects do not depend on the build, GFOLDN's because either table holds the
powers of H; the status word holds K and TIER in its bytes 5 and 6. -/
theorem buildParametersDoNotShow : Obligations.BuildParametersDoNotShow := by
  intro s t hs ht alike
  obtain ⟨b, table, lanes, rfl⟩ : ∃ b table lanes, t = s.rebuilt b table lanes :=
    ⟨_, _, _, alike⟩
  have tables : s.gv = true → powersHeld s.build.k s.hpow s.h ∧ powersHeld b.k table s.h :=
    fun hashed => ⟨(hs.hash_present hashed).2.2, (ht.hash_present hashed).2.2⟩
  refine ⟨fun i hi ne_rdst operand => ?_, fun i => gfoldn_of_operandLegal_ne, ?_⟩
  · obtain ⟨s', table', lanes', hs', ht', build⟩ :=
      exec_rebuilt (lanes := lanes) hi ne_rdst operand tables
    exact ⟨s', _, hs', ht', rfl, build, rfl⟩
  · exact ⟨_, _, _, _, exec_rdst s, exec_rdst _, rfl, rfl, statusBytes_length _,
      statusBytes_length _, statusBytes_rebuilt b table lanes s, rfl, rfl, rfl⟩

end Sys2Proof.Machine

namespace Sys2Proof.Machine

/-! The update of a stream over runs of bytes (spec/43_aead_sequencer.md R152, R158): within one
block, over whole blocks, and the bytes left over. -/

/-- One byte of an update, written out (R152). -/
theorem updateByte_eq (d : Direction) (s : State) (x : Byte) :
    s.updateByte d x =
      (s.beginBlock.absorb (cipherByte d x (x ^^^ byteAt s.beginBlock.ks s.beginBlock.resn.toNat)),
        x ^^^ byteAt s.beginBlock.ks s.beginBlock.resn.toNat) := rfl

/-- Settles O21: `beginBlock` and `absorb` by their two cases each. -/
theorem updateLoopTakesOneByteAtATime : Obligations.UpdateLoopTakesOneByteAtATime := by
  refine ⟨updateBytes_nil, ?_⟩
  intro d s x xs ctr ks res o s' hctr hks ho hres hs'
  have begun : s.beginBlock = { s with ctr := ctr, ks := ks } := by
    obtain ⟨hn, hb⟩ | ⟨hn, hb⟩ := beginBlock_cases s
    · rw [hb, hks, hctr, if_pos hn, if_pos hn]
      rfl
    · rw [hb, hks, hctr, if_neg hn, if_neg hn]
  have hres : res = setByteAt s.res s.resn.toNat (cipherByte d x o) := by
    rw [hres]
    cases d with
    | enc => rfl
    | dec => rfl
  have byte : s.updateByte d x = (s', o) := by
    rw [updateByte_eq, begun]
    change (State.absorb (cipherByte d x (x ^^^ byteAt ks s.resn.toNat)) _, _) = _
    rw [← ho, hs']
    refine Prod.ext ?_ rfl
    obtain ⟨hn, ha⟩ | ⟨hn, ha⟩ := absorb_cases (cipherByte d x o) { s with ctr := ctr, ks := ks }
    · have hn : s.resn.toNat = 15 := hn
      rw [ha, if_pos hn, hres, hn]
      rfl
    · rw [ha, if_neg (Nat.ne_of_lt hn), hres]
  rw [updateBytes_cons, byte]

/-! ### Within one block -/

/-- A byte put after the bytes of a padded block. -/
theorem setByteAt_padBlock (l : List Byte) (c : Byte) (h : l.length < 16) :
    setByteAt (padBlock l) l.length c = padBlock (l ++ [c]) := by
  apply block_ext
  intro i hi
  rw [byteAt_setByteAt _ _ i _ hi, byteAt_padBlock l i (by omega) hi,
    byteAt_padBlock _ i (by rw [List.length_append]; simpa using h) hi]
  obtain below | rfl | above := lt_trichotomy i l.length
  · rw [if_neg (by omega), List.getElem?_append_left below]
  · simp
  · rw [if_neg (by omega), List.getElem?_eq_none (by omega),
      List.getElem?_eq_none (by rw [List.length_append, List.length_singleton]; omega)]

theorem cipherBytes_append (d : Direction) (p q o r : List Byte) :
    cipherBytes d (p ++ q) (o ++ r) = cipherBytes d p o ++ cipherBytes d q r := by
  cases d <;> rfl

theorem cipherBytes_singleton (d : Direction) (x o : Byte) :
    cipherBytes d [x] [o] = [cipherByte d x o] := by
  cases d <;> rfl

theorem cipherBytes_length (d : Direction) (p o : List Byte) (h : o.length = p.length) :
    (cipherBytes d p o).length = p.length := by
  cases d with
  | enc => exact h
  | dec => rfl

theorem xorBytes_length (p k : List Byte) (h : p.length ≤ k.length) :
    (xorBytes p k).length = p.length := by
  rw [xorBytes, List.length_zipWith, min_eq_left h]

/-- Bytes combined with a keystream: the last one with the byte at its place. -/
theorem xorBytes_concat (p k : List Byte) (x y : Byte) (h : k[p.length]? = some y) :
    xorBytes (p ++ [x]) k = xorBytes p k ++ [x ^^^ y] := by
  induction p generalizing k with
  | nil =>
    cases k with
    | nil => cases h
    | cons z k =>
      rw [show z = y from Option.some.inj h]
      rfl
  | cons a p ih =>
    cases k with
    | nil => cases h
    | cons z k => exact congrArg ((a ^^^ z) :: ·) (ih k h)

/-- The bytes of the block in progress after `p`: those it held, then the ciphertext of `p`. -/
def State.progress (d : Direction) (p : List Byte) (s : State) : List Byte :=
  (blockBytes s.res).take s.resn.toNat
    ++ cipherBytes d p (xorBytes p ((blockBytes s.ks).drop s.resn.toNat))

theorem continueBlock_output (d : Direction) (p : List Byte) (s : State) :
    (s.continueBlock d p).2 = xorBytes p ((blockBytes s.ks).drop s.resn.toNat) := rfl

theorem absorb_of_last (c : Byte) (s : State) (h : s.resn.toNat = 15) :
    s.absorb c =
      { s with acc := fold s.h s.acc (setByteAt s.res s.resn.toNat c), res := 0, resn := 0 } :=
  if_pos (congrArg (· + 1) h)

theorem absorb_of_not_last (c : Byte) (s : State) (h : s.resn.toNat < 15) :
    s.absorb c = { s with res := setByteAt s.res s.resn.toNat c, resn := s.resn + 1 } :=
  if_neg (Nat.ne_of_lt (Nat.succ_lt_succ h))

section
variable (d : Direction) (p : List Byte) (s : State)

theorem continueBlock_of_full (h : s.resn.toNat + p.length = 16) :
    (s.continueBlock d p).1 =
      { s with acc := fold s.h s.acc (padBlock (s.progress d p)), res := 0, resn := 0 } := if_pos h

theorem continueBlock_of_partial (h : s.resn.toNat + p.length < 16) :
    (s.continueBlock d p).1 =
      { s with res := padBlock (s.progress d p)
               resn := BitVec.ofNat 4 (s.resn.toNat + p.length) } := if_neg (Nat.ne_of_lt h)

variable (h : s.resn.toNat + p.length < 16)
include h

theorem progress_length : (s.progress d p).length = s.resn.toNat + p.length := by
  have held : ((blockBytes s.res).take s.resn.toNat).length = s.resn.toNat := by
    rw [List.length_take, blockBytes_length]
    omega
  have output : (xorBytes p ((blockBytes s.ks).drop s.resn.toNat)).length = p.length :=
    xorBytes_length _ _ (by rw [List.length_drop, blockBytes_length]; omega)
  rw [State.progress, List.length_append, held, cipherBytes_length d p _ output]

/-- The next byte's output, under the keystream byte at its place. -/
theorem xorBytes_next (x : Byte) :
    xorBytes (p ++ [x]) ((blockBytes s.ks).drop s.resn.toNat) =
      xorBytes p ((blockBytes s.ks).drop s.resn.toNat)
        ++ [x ^^^ byteAt s.ks (s.resn.toNat + p.length)] := by
  apply xorBytes_concat
  rw [List.getElem?_drop, blockBytes_getElem? _ _ h]

theorem progress_next (x : Byte) :
    s.progress d (p ++ [x]) =
      s.progress d p ++ [cipherByte d x (x ^^^ byteAt s.ks (s.resn.toNat + p.length))] := by
  rw [State.progress, xorBytes_next p s h, cipherBytes_append, cipherBytes_singleton,
    ← List.append_assoc, State.progress]

/-- Within a block the bytes go one after another: taking one more is absorbing it. -/
theorem continueBlock_next (x : Byte) :
    ((s.continueBlock d p).1.absorb
        (cipherByte d x (x ^^^ byteAt s.ks (s.resn.toNat + p.length))),
      (s.continueBlock d p).2 ++ [x ^^^ byteAt s.ks (s.resn.toNat + p.length)]) =
      s.continueBlock d (p ++ [x]) := by
  refine Prod.ext ?_ (xorBytes_next p s h x).symm
  have next := setByteAt_padBlock (s.progress d p)
    (cipherByte d x (x ^^^ byteAt s.ks (s.resn.toNat + p.length)))
    ((progress_length d p s h).trans_lt h)
  rw [progress_length d p s h, ← progress_next d p s h] at next
  generalize cipherByte d x (x ^^^ byteAt s.ks (s.resn.toNat + p.length)) = c at next
  have partial_ := continueBlock_of_partial d p s h
  have resn : (s.continueBlock d p).1.resn.toNat = s.resn.toNat + p.length := by
    rw [partial_]
    exact Nat.mod_eq_of_lt h
  have res : (s.continueBlock d p).1.res = padBlock (s.progress d p) := by rw [partial_]
  have length : s.resn.toNat + (p ++ [x]).length = s.resn.toNat + p.length + 1 := by
    rw [List.length_append, List.length_singleton, Nat.add_assoc]
  have count : BitVec.ofNat 4 (s.resn.toNat + p.length) + 1 =
      BitVec.ofNat 4 (s.resn.toNat + p.length + 1) := (BitVec.ofNat_add _ 1).symm
  change (s.continueBlock d p).1.absorb c = _
  by_cases last : s.resn.toNat + p.length = 15
  · rw [continueBlock_of_full d (p ++ [x]) s (by omega), absorb_of_last c _ (resn.trans last), resn,
      res, next, partial_]
  · rw [continueBlock_of_partial d (p ++ [x]) s (by omega), absorb_of_not_last c _ (by omega), resn,
      res, next, partial_, length, ← count]

end

/-- RES is its own bytes padded again when it is clear beyond them. -/
theorem padBlock_take_res (s : State) (clear : ResidueClear s) :
    padBlock ((blockBytes s.res).take s.resn.toNat) = s.res := by
  have few : ((blockBytes s.res).take s.resn.toNat).length ≤ 16 := by
    rw [List.length_take, blockBytes_length]
    omega
  apply block_ext
  intro i hi
  rw [byteAt_padBlock _ i few hi]
  by_cases held : i < s.resn.toNat
  · rw [List.getElem?_take_of_lt held, blockBytes_getElem? _ i hi, Option.getD_some]
  · rw [List.getElem?_eq_none (by rw [List.length_take]; omega), clear i (Nat.not_lt.mp held) hi,
      Option.getD_none]

theorem continueBlock_nil (d : Direction) (s : State) (clear : ResidueClear s) :
    s.continueBlock d [] = (s, []) := by
  have progress : s.progress d [] = (blockBytes s.res).take s.resn.toNat := by
    cases d <;> exact List.append_nil _
  have count : BitVec.ofNat 4 (s.resn.toNat + [].length (α := Byte)) = s.resn := by simp
  refine Prod.ext ?_ rfl
  rw [continueBlock_of_partial d [] s s.resn.isLt, progress, padBlock_take_res s clear, count]

theorem beginBlock_of_in_progress (s : State) (h : s.resn.toNat ≠ 0) : s.beginBlock = s := by
  obtain ⟨hn, -⟩ | ⟨-, hb⟩ := beginBlock_cases s
  · exact absurd (congrArg BitVec.toNat hn) h
  · exact hb

theorem beginBlock_of_no_residue (s : State) (h : s.resn = 0) :
    s.beginBlock = { s with ctr := inc32 s.ctr 1, ks := s.encrypt (inc32 s.ctr 1) } := if_pos h

theorem ResidueClear.beginBlock {s : State} (clear : ResidueClear s) :
    ResidueClear s.beginBlock := by
  rw [ResidueClear, beginBlock_resn, beginBlock_res]
  exact clear

/-- One more byte, once the bytes before it are known to have gone on with the block. -/
theorem updateBytes_next (d : Direction) (p : List Byte) (x : Byte) (s : State)
    (h : s.resn.toNat + p.length < 16)
    (state : (s.updateBytes d p).1.beginBlock = (s.beginBlock.continueBlock d p).1)
    (output : (s.updateBytes d p).2 = (s.beginBlock.continueBlock d p).2) :
    s.updateBytes d (p ++ [x]) = s.beginBlock.continueBlock d (p ++ [x]) := by
  have room : s.beginBlock.resn.toNat + p.length < 16 := by rwa [beginBlock_resn]
  have ks : (s.beginBlock.continueBlock d p).1.ks = s.beginBlock.ks := by
    rw [continueBlock_of_partial d p _ room]
  have resn :
      (s.beginBlock.continueBlock d p).1.resn.toNat = s.beginBlock.resn.toNat + p.length := by
    rw [continueBlock_of_partial d p _ room]
    exact Nat.mod_eq_of_lt room
  rw [updateBytes_append, updateBytes_cons, updateBytes_nil, updateByte_eq, state, output, ks, resn]
  exact continueBlock_next d p _ room x

/-- Bytes that leave room in the block: it is begun if none is in progress, goes on, and is still
in progress, so that `beginBlock` leaves it. -/
theorem updateBytes_in_progress (d : Direction) (p : List Byte) (s : State) (clear : ResidueClear s)
    (h : s.resn.toNat + p.length < 16) :
    (s.updateBytes d p).1.beginBlock = (s.beginBlock.continueBlock d p).1 ∧
      (s.updateBytes d p).2 = (s.beginBlock.continueBlock d p).2 := by
  induction p using List.reverseRecOn with
  | nil =>
    rw [continueBlock_nil d _ clear.beginBlock]
    exact ⟨rfl, rfl⟩
  | append_singleton p x ih =>
    have length : (p ++ [x]).length = p.length + 1 := List.length_append
    obtain ⟨state, output⟩ := ih (by omega)
    have started := updateBytes_resn d (p ++ [x]) s
    rw [beginBlock_of_in_progress _ (by omega),
      updateBytes_next d p x s (by omega) state output]
    exact ⟨rfl, rfl⟩

/-- Bytes that at most fill the block (R158, phases 1 and 3). -/
theorem updateBytes_within_block (d : Direction) (p : List Byte) (s : State)
    (clear : ResidueClear s) (hne : p ≠ []) (h : s.resn.toNat + p.length ≤ 16) :
    s.updateBytes d p = s.beginBlock.continueBlock d p := by
  obtain ⟨q, x, rfl⟩ := (List.eq_nil_or_concat' p).resolve_left hne
  have length : (q ++ [x]).length = q.length + 1 := List.length_append
  obtain ⟨state, output⟩ := updateBytes_in_progress d q s clear (by omega)
  exact updateBytes_next d q x s (by omega) state output

/-! ### Whole blocks -/

theorem issuedBlocks_succ (c : Block) (n : Nat) :
    issuedBlocks c (n + 1) = inc32 c 1 :: issuedBlocks (inc32 c 1) n := by
  simp only [issuedBlocks, List.range_succ_eq_map, List.map_cons, List.map_map, Function.comp_def,
    inc32_inc32, Nat.add_comm 1, Nat.succ_eq_add_one, Nat.zero_add]

theorem xorBytes_append (p k l : List Byte) :
    xorBytes p (k ++ l) = xorBytes (p.take k.length) k ++ xorBytes (p.drop k.length) l := by
  induction k generalizing p with
  | nil => simp [xorBytes]
  | cons y k ih =>
    cases p with
    | nil => simp [xorBytes]
    | cons x p => exact congrArg ((x ^^^ y) :: ·) (ih p)

/-- Beyond the first block the blocks are those of what the first leaves. -/
theorem blocksOfBytes_of_ne_nil (s : List Byte) (h : s ≠ []) :
    blocksOfBytes s = padBlock (s.take 16) :: blocksOfBytes (s.drop 16) := by
  have pos := List.length_pos_iff.mpr h
  have count : blockCount s.length = blockCount (s.drop 16).length + 1 := by
    rw [List.length_drop, blockCount, blockCount]
    omega
  rw [blocksOfBytes, count, chunkBlocks, blocksOfBytes]

theorem cipherBytes_take (d : Direction) (p o : List Byte) (n : Nat) :
    (cipherBytes d p o).take n = cipherBytes d (p.take n) (o.take n) := by
  cases d <;> rfl

theorem cipherBytes_drop (d : Direction) (p o : List Byte) (n : Nat) :
    (cipherBytes d p o).drop n = cipherBytes d (p.drop n) (o.drop n) := by
  cases d <;> rfl

/-- No block is in progress, and RES is clear. -/
def State.AtBoundary (s : State) : Prop := s.resn = 0 ∧ s.res = 0

theorem State.AtBoundary.clear {s : State} (h : s.AtBoundary) : ResidueClear s := fun i _ _ => by
  rw [h.2, byteAt_zero]

theorem atBoundary_of_clear {s : State} (clear : ResidueClear s) (h : s.resn = 0) :
    s.AtBoundary := by
  refine ⟨h, block_ext _ _ fun i hi => ?_⟩
  rw [clear i (by rw [h]; exact Nat.zero_le i) hi, byteAt_zero]

/-- The keystream block an update begins at a boundary (R152). -/
def State.blockKey (s : State) : Block := s.encrypt (inc32 s.ctr 1)

/-- The state in which the next block of a stream has been begun (R152). -/
def State.nextBlock (s : State) : State := { s with ctr := inc32 s.ctr 1, ks := s.blockKey }

/-- The state after the whole block `p` of a stream: begun, and its ciphertext folded (R152). -/
def State.blockDone (d : Direction) (p : List Byte) (s : State) : State :=
  { s.nextBlock with
    acc := fold s.h s.acc (padBlock (cipherBytes d p (xorBytes p (blockBytes s.blockKey)))) }

theorem atBoundary_blockDone {d : Direction} {p : List Byte} {s : State} (h : s.AtBoundary) :
    (s.blockDone d p).AtBoundary := h

/-- From a boundary, at most sixteen bytes are combined with the next keystream block. -/
theorem updateBytes_of_boundary (d : Direction) (p : List Byte) (s : State) (start : s.AtBoundary)
    (hne : p ≠ []) (h : p.length ≤ 16) : s.updateBytes d p = s.nextBlock.continueBlock d p := by
  have none_held : s.resn.toNat = 0 := congrArg BitVec.toNat start.1
  rw [updateBytes_within_block d p s start.clear hne (by omega),
    beginBlock_of_no_residue s start.1, State.nextBlock, State.blockKey]

theorem progress_of_boundary (d : Direction) (p : List Byte) (s : State) (h : s.resn = 0) :
    s.progress d p = cipherBytes d p (xorBytes p (blockBytes s.ks)) := by
  rw [State.progress, h]
  rfl

theorem continueBlock_output_of_boundary (d : Direction) (p : List Byte) (s : State)
    (h : s.resn = 0) : (s.continueBlock d p).2 = xorBytes p (blockBytes s.ks) := by
  rw [continueBlock_output, h]
  rfl

/-- A whole block from a boundary is folded, and the stream stands at a boundary again. -/
theorem updateBytes_block (d : Direction) (p : List Byte) (s : State) (start : s.AtBoundary)
    (h : p.length = 16) :
    s.updateBytes d p = (s.blockDone d p, xorBytes p (blockBytes s.blockKey)) := by
  have hne : p ≠ [] := List.length_pos_iff.mp (by omega)
  have resn : s.nextBlock.resn = 0 := start.1
  have count : s.nextBlock.resn.toNat + p.length = 16 := by rw [resn, h]; rfl
  rw [updateBytes_of_boundary d p s start hne h.le]
  refine Prod.ext ?_ (continueBlock_output_of_boundary d p _ resn)
  rw [continueBlock_of_full d p _ count, progress_of_boundary d p _ resn, ← start.2, ← start.1]
  rfl

/-- The first whole block of a run, and then the rest. -/
theorem updateBytes_block_first (d : Direction) (p : List Byte) (s : State) (start : s.AtBoundary)
    (h : 16 ≤ p.length) :
    s.updateBytes d p =
      (((s.blockDone d (p.take 16)).updateBytes d (p.drop 16)).1,
        xorBytes (p.take 16) (blockBytes s.blockKey)
          ++ ((s.blockDone d (p.take 16)).updateBytes d (p.drop 16)).2) := by
  have whole : (p.take 16).length = 16 := by rw [List.length_take]; omega
  conv_lhs => rw [← List.take_append_drop 16 p]
  rw [updateBytes_append, updateBytes_block d _ s start whole]

/-- The next `n` blocks of the keystream. -/
def State.keystream (n : Nat) (s : State) : List Byte :=
  bytesOfBlocks ((issuedBlocks s.ctr n).map s.encrypt)

theorem keystream_succ (d : Direction) (p : List Byte) (n : Nat) (s : State) :
    s.keystream (n + 1) = blockBytes s.blockKey ++ (s.blockDone d p).keystream n := by
  rw [State.keystream, issuedBlocks_succ, List.map_cons, bytesOfBlocks_cons]
  rfl

theorem blockCount_of_ne_nil (s : List Byte) (h : s ≠ []) :
    blockCount s.length = blockCount (s.drop 16).length + 1 := by
  have pos := List.length_pos_iff.mpr h
  rw [List.length_drop, blockCount, blockCount]
  omega

/-- The output of a run from a boundary: the bytes combined with the keystream (R163). -/
theorem updateBytes_output (d : Direction) (p : List Byte) (s : State) (start : s.AtBoundary) :
    (s.updateBytes d p).2 = xorBytes p (s.keystream (blockCount p.length)) := by
  induction p using chunks_induction generalizing s with
  | nil => rfl
  | chunk p hne ih =>
    rw [blockCount_of_ne_nil p hne, keystream_succ d (p.take 16), xorBytes_append,
      blockBytes_length]
    by_cases h : 16 ≤ p.length
    · rw [updateBytes_block_first d p s start h, ih _ (atBoundary_blockDone start)]
    · have short : p.length ≤ 16 := by omega
      have resn : s.nextBlock.resn = 0 := start.1
      rw [updateBytes_of_boundary d p s start hne short,
        continueBlock_output_of_boundary d p _ resn, List.take_of_length_le short,
        List.drop_of_length_le short]
      exact (List.append_nil _).symm

/-- The accumulator with the bytes in progress folded, as closing a message folds them (R161). -/
def State.closingAcc (s : State) : Block :=
  if s.resn.toNat > 0 then fold s.h s.acc s.res else s.acc

theorem closingAcc_of_boundary {s : State} (h : s.resn = 0) : s.closingAcc = s.acc := by
  rw [State.closingAcc, h]
  rfl

@[simp] theorem blocksOfBytes_nil : blocksOfBytes [] = [] := rfl

theorem foldBytes_of_ne_nil (h acc : Block) (s : List Byte) (hne : s ≠ []) :
    foldBytes h acc s = foldBytes h (fold h acc (padBlock (s.take 16))) (s.drop 16) := by
  rw [foldBytes, blocksOfBytes_of_ne_nil s hne]
  rfl

@[simp] theorem cipherBytes_nil (d : Direction) : cipherBytes d [] [] = [] := by
  cases d <;> rfl

/-- A run from a boundary folds its ciphertext, the last bytes when the message is closed. -/
theorem updateBytes_closingAcc (d : Direction) (p : List Byte) (s : State) (start : s.AtBoundary) :
    (s.updateBytes d p).1.closingAcc =
      foldBytes s.h s.acc (cipherBytes d p (s.updateBytes d p).2) := by
  induction p using chunks_induction generalizing s with
  | nil =>
    rw [updateBytes_nil, closingAcc_of_boundary start.1, cipherBytes_nil]
    rfl
  | chunk p hne ih =>
    have cipher_length := cipherBytes_length d p _ (updateBytes_length d p s)
    have cipher_ne : cipherBytes d p (s.updateBytes d p).2 ≠ [] :=
      List.length_pos_iff.mp (by rw [cipher_length]; exact List.length_pos_iff.mpr hne)
    rw [foldBytes_of_ne_nil _ _ _ cipher_ne]
    by_cases h : 16 ≤ p.length
    · have first : (xorBytes (p.take 16) (blockBytes s.blockKey)).length = 16 := by
        rw [xorBytes_length _ _ (by rw [List.length_take, blockBytes_length]; omega),
          List.length_take, min_eq_left h]
      rw [updateBytes_block_first d p s start h, ih _ (atBoundary_blockDone start),
        cipherBytes_take, cipherBytes_drop, List.take_left' first, List.drop_left' first]
      rfl
    · have short : p.length < 16 := by omega
      have resn : s.nextBlock.resn = 0 := start.1
      have count : s.nextBlock.resn.toNat + p.length = p.length := by
        rw [resn]
        exact Nat.zero_add _
      have held : 0 < (BitVec.ofNat 4 p.length).toNat := by
        rw [BitVec.toNat_ofNat, Nat.mod_eq_of_lt short]
        exact List.length_pos_iff.mpr hne
      rw [List.take_of_length_le (by omega), List.drop_of_length_le (by omega),
        updateBytes_of_boundary d p s start hne short.le,
        continueBlock_output_of_boundary d p _ resn,
        continueBlock_of_partial d p _ (count.trans_lt short), count,
        progress_of_boundary d p _ resn]
      exact if_pos held

/-! ### The parallel update (R158) -/

/-- After whole blocks KS holds the last keystream block. -/
theorem updateBytes_ks (d : Direction) (w : Nat) (p : List Byte) (s : State) (start : s.AtBoundary)
    (h : p.length = 16 * w) :
    (s.updateBytes d p).1.ks = ((issuedBlocks s.ctr w).map s.encrypt).getLastD s.ks := by
  induction w generalizing p s with
  | zero => rw [List.length_eq_zero_iff.mp h]; rfl
  | succ w ih =>
    rw [updateBytes_block_first d p s start (by omega),
      ih _ _ (atBoundary_blockDone start) (by rw [List.length_drop]; omega), issuedBlocks_succ,
      List.map_cons, List.getLastD_cons]
    rfl

theorem blocksNeeded_blocks (w : Nat) : blocksNeeded 0 (16 * w) = w := by
  rw [blocksNeeded_eq 0 _ (by omega), blockCount, blockCount]
  omega

theorem blockCount_blocks (w : Nat) : blockCount (16 * w) = w := by
  rw [blockCount]
  omega

theorem atBoundary_updateBytes {s : State} (clear : ResidueClear s) (d : Direction) (p : List Byte)
    (h : (s.resn.toNat + p.length) % 16 = 0) : (s.updateBytes d p).1.AtBoundary := by
  refine atBoundary_of_clear (clear.updateBytes d p) (BitVec.eq_of_toNat_eq ?_)
  rw [updateBytes_resn, h]
  rfl

/-- An update's state is known when the five registers it writes are. -/
theorem updateBytes_state_eq (d : Direction) (p : List Byte) (s : State)
    {ctr ks res : Block} {resn : BitVec 4} {acc : Block}
    (hctr : (s.updateBytes d p).1.ctr = ctr) (hks : (s.updateBytes d p).1.ks = ks)
    (hres : (s.updateBytes d p).1.res = res) (hresn : (s.updateBytes d p).1.resn = resn)
    (hacc : (s.updateBytes d p).1.acc = acc) :
    (s.updateBytes d p).1 =
      { s with ctr := ctr, ks := ks, res := res, resn := resn, acc := acc } := by
  obtain ⟨c, k, r, n, a, frame⟩ := updateBytes_frame d p s
  rw [frame] at hctr hks hres hresn hacc ⊢
  subst hctr hks hres hresn hacc
  rfl

/-- Whole blocks from a boundary, field by field. -/
theorem updateBytes_blocks (d : Direction) (w : Nat) (p : List Byte) (s : State)
    (start : s.AtBoundary) (h : p.length = 16 * w) :
    s.updateBytes d p =
      ({ s with
          ctr := inc32 s.ctr w
          ks := ((issuedBlocks s.ctr w).map s.encrypt).getLastD s.ks
          acc := foldBytes s.h s.acc (cipherBytes d p (xorBytes p (s.keystream w))) },
        xorBytes p (s.keystream w)) := by
  have none_held : s.resn.toNat = 0 := congrArg BitVec.toNat start.1
  have output := updateBytes_output d p s start
  have ctr := updateBytes_ctr d p s
  have ks := updateBytes_ks d w p s start h
  have acc := updateBytes_closingAcc d p s start
  obtain ⟨resn, res⟩ := atBoundary_updateBytes start.clear d p (by omega)
  rw [closingAcc_of_boundary resn, output] at acc
  rw [none_held] at ctr
  rw [h, blockCount_blocks] at output acc
  rw [h, blocksNeeded_blocks] at ctr
  exact Prod.ext (updateBytes_state_eq d p s ctr ks (res.trans start.2.symm)
    (resn.trans start.1.symm) acc) output

/-- What the build must give for the parallel form: at least one lane, and the powers of H
(R158). -/
structure State.Parallel (s : State) : Prop where
  lanes : 1 ≤ s.build.lanes
  entries : 1 ≤ s.build.k
  held : powersHeld s.build.k s.hpow s.h

/-- A run of one width is a run of the byte-serial rule: lanes issue and encrypt the same blocks,
and the descent folds them the same (R115, R96, R141). -/
theorem wideBlocks_eq_updateBytes (d : Direction) (w : Nat) (p : List Byte) (s : State)
    (start : s.AtBoundary) (parallel : s.Parallel) (h : p.length = 16 * w) :
    s.wideBlocks d p = s.updateBytes d p := by
  obtain ⟨lanes, entries, held⟩ := parallel
  have width : p.length / 16 = w := by omega
  rw [updateBytes_blocks d w p s start h, State.wideBlocks]
  simp only [width, issueLanes_eq_issuedBlocks _ _ _ lanes, encryptLanes_eq_map _ _ _ _ lanes,
    foldDescent_eq_foldBlocks _ _ _ held entries]
  rfl

theorem parallel_updateBytes {s : State} (h : s.Parallel) (d : Direction) (p : List Byte) :
    (s.updateBytes d p).1.Parallel := by
  obtain ⟨ctr, ks, res, resn, acc, frame⟩ := updateBytes_frame d p s
  rw [frame]
  exact ⟨h.lanes, h.entries, h.held⟩

theorem wideRuns_eq_updateBytes (d : Direction) (ws : List Nat) (p : List Byte) (s : State)
    (start : s.AtBoundary) (parallel : s.Parallel) (h : p.length = 16 * ws.sum) :
    s.wideRuns d ws p = s.updateBytes d p := by
  induction ws generalizing p s with
  | nil => rw [List.length_eq_zero_iff.mp h]; rfl
  | cons w ws ih =>
    rw [List.sum_cons] at h
    have none_held : s.resn.toNat = 0 := congrArg BitVec.toNat start.1
    have first : (p.take (16 * w)).length = 16 * w := by rw [List.length_take]; omega
    have rest : (p.drop (16 * w)).length = 16 * ws.sum := by rw [List.length_drop]; omega
    have boundary := atBoundary_updateBytes start.clear d (p.take (16 * w)) (by omega)
    conv_rhs => rw [← List.take_append_drop (16 * w) p]
    rw [State.wideRuns, wideBlocks_eq_updateBytes d w _ s start parallel first,
      ih _ _ boundary (parallel_updateBytes parallel d _) rest, updateBytes_append]

theorem tailBlock_eq_updateBytes (d : Direction) (p : List Byte) (s : State)
    (start : p ≠ [] → s.AtBoundary) (h : p.length < 16) : s.tailBlock d p = s.updateBytes d p := by
  by_cases hne : p = []
  · rw [hne]
    rfl
  · have start := start hne
    have resn : s.nextBlock.resn = 0 := start.1
    have count : s.nextBlock.resn.toNat + p.length = p.length := by rw [resn]; exact Nat.zero_add _
    rw [State.tailBlock, if_neg hne, updateBytes_of_boundary d p s start hne h.le]
    refine Prod.ext ?_ (continueBlock_output_of_boundary d p _ resn).symm
    rw [continueBlock_of_partial d p _ (count.trans_lt h), count, progress_of_boundary d p _ resn]
    rfl

/-- Phase 1: the bytes that continue the block in progress. -/
theorem firstPhase_eq_updateBytes (d : Direction) (p : List Byte) (s : State)
    (clear : ResidueClear s) (h : p ≠ [] → s.resn ≠ 0 ∧ s.resn.toNat + p.length ≤ 16) :
    (if p.length = 0 then (s, []) else s.continueBlock d p) = s.updateBytes d p := by
  by_cases hne : p = []
  · rw [hne]
    rfl
  · obtain ⟨some_held, room⟩ := h hne
    have held : s.resn.toNat ≠ 0 := fun zero => some_held (BitVec.eq_of_toNat_eq zero)
    rw [if_neg (fun zero => hne (List.length_eq_zero_iff.mp zero)),
      updateBytes_within_block d p s clear hne room, beginBlock_of_in_progress s held]

/-- Phases 2 and 3: the whole blocks, then the bytes left over. -/
theorem laterPhases_eq_updateBytes (d : Direction) (q : List Byte) (m : Nat)
    (hm : m = q.length / 16) (s : State) (start : q ≠ [] → s.AtBoundary) (parallel : s.Parallel) :
    let r := s.wideRuns d (descentWidths m) (q.take (16 * m))
    let t := r.1.tailBlock d (q.drop (16 * m))
    (t.1, r.2 ++ t.2) = s.updateBytes d q := by
  intro r t
  by_cases hq : q = []
  · subst hq hm
    rfl
  · have start := start hq
    have none_held : s.resn.toNat = 0 := congrArg BitVec.toNat start.1
    have whole : (q.take (16 * m)).length = 16 * (descentWidths m).sum := by
      rw [descentWidths_sum, List.length_take]
      omega
    have left : (q.drop (16 * m)).length < 16 := by
      rw [List.length_drop]
      omega
    have hr : r = s.updateBytes d (q.take (16 * m)) :=
      wideRuns_eq_updateBytes d _ _ s start parallel whole
    have boundary := atBoundary_updateBytes start.clear d (q.take (16 * m)) (by omega)
    have ht : t = (s.updateBytes d (q.take (16 * m))).1.updateBytes d (q.drop (16 * m)) := by
      rw [← hr]
      exact tailBlock_eq_updateBytes d _ _ (fun _ => hr ▸ boundary) left
    conv_rhs => rw [← List.take_append_drop (16 * m) q]
    rw [hr, ht, updateBytes_append]

/-- How many bytes of `p` continue the block in progress (R158). -/
def State.continued (p : List Byte) (s : State) : Nat :=
  if s.resn = 0 then 0 else min (16 - s.resn.toNat) p.length

theorem continued_cases (p : List Byte) (s : State) :
    (s.resn = 0 ∧ s.continued p = 0) ∨
      (s.resn ≠ 0 ∧ s.continued p = min (16 - s.resn.toNat) p.length) := by
  by_cases h : s.resn = 0
  · exact .inl ⟨h, if_pos h⟩
  · exact .inr ⟨h, if_neg h⟩

/-- Settles O43: each phase is the byte-serial rule on its bytes, and the phases take all of them;
after the first either the stream stands at a boundary or no byte is left. -/
theorem parallelUpdateIsByteSerial : Obligations.ParallelUpdateIsByteSerial := by
  intro d p s legal held clear _
  have bound := s.resn.isLt
  have parallel : s.Parallel := ⟨by omega, legal.1, held⟩
  have cases_ := continued_cases p s
  have length : (p.take (s.continued p)).length = s.continued p := by
    rw [List.length_take]
    omega
  have first : (if s.continued p = 0 then (s, []) else s.continueBlock d (p.take (s.continued p))) =
      s.updateBytes d (p.take (s.continued p)) := by
    have phase := firstPhase_eq_updateBytes d (p.take (s.continued p)) s clear fun hne => by
      have pos := List.length_pos_iff.mpr hne
      obtain ⟨-, zero⟩ | ⟨some_held, count⟩ := cases_
      · omega
      · exact ⟨some_held, by omega⟩
    rwa [length] at phase
  have boundary : p.drop (s.continued p) ≠ [] →
      (s.updateBytes d (p.take (s.continued p))).1.AtBoundary := by
    intro hne
    have more := List.length_pos_iff.mpr hne
    rw [List.length_drop] at more
    refine atBoundary_updateBytes clear d _ ?_
    rw [length]
    obtain ⟨zero, none_⟩ | ⟨-, count⟩ := cases_
    · rw [zero, none_]
      rfl
    · omega
  have later := laterPhases_eq_updateBytes d (p.drop (s.continued p))
    ((p.length - s.continued p) / 16) (by rw [List.length_drop]) _ boundary
    (parallel_updateBytes parallel d _)
  conv_rhs => rw [← List.take_append_drop (s.continued p) p]
  rw [updateBytes_append, ← later, ← first, List.drop_drop]
  exact Prod.ext rfl (List.append_assoc _ _ _)

end Sys2Proof.Machine

namespace Sys2Proof.Machine

/-! Streams cut into updates, and whole messages (spec/43_aead_sequencer.md R155, R156, R163). -/

/-- The state after an update that ends OK, but for the response port (R152). -/
def State.updated (d : Direction) (p : List Byte) (s : State) : State :=
  { (s.updateBytes d p).1.finishUpdate d p.length with lastst := .ok }

/-- The state with these responses sent instead (R155 leaves them aside). -/
def State.sending (outbox : List Response) (s : State) : State := { s with outbox := outbox }

/-- The OK response with an output. -/
def okResponse (out : List Byte) : Response := { status := .ok, out := out }

section
variable {d : Direction} {p q : List Byte} {s : State}

theorem update_eq_updated (opened : s.streamOpen) (dir : s.directionFree d)
    (range : canIssue s.ctr (blocksNeeded s.resn.toNat p.length)) :
    s.update d p = (s.updated d p).sending (s.outbox ++ [okResponse (s.updateBytes d p).2]) := by
  rw [update_of_in_range opened dir range, State.respond, State.finishUpdate_outbox,
    updateBytes_outbox]
  rfl

/-- An update after an update is the update of the joined bytes (R155). -/
theorem updated_updated : (s.updated d p).updated d q = s.updated d (p ++ q) := by
  have later : (s.updated d p).updateBytes d q = _ :=
    updateBytes_within d q (s.updated d p) (s.updateBytes d p).1
  have count (n : BitVec 64) : n + BitVec.ofNat 64 p.length + BitVec.ofNat 64 q.length =
      n + BitVec.ofNat 64 (p.length + q.length) := by
    rw [BitVec.add_assoc, ← BitVec.ofNat_add]
  rw [State.updated, later, State.updated.eq_1 d (p ++ q), updateBytes_append, List.length_append,
    ← within_updateBytes d q (s.updateBytes d p).1]
  simp only [State.finishUpdate, State.within, State.updated, count]

theorem updated_output :
    (s.updateBytes d p).2 ++ ((s.updated d p).updateBytes d q).2 =
      (s.updateBytes d (p ++ q)).2 := by
  have later : (s.updated d p).updateBytes d q = _ :=
    updateBytes_within d q (s.updated d p) (s.updateBytes d p).1
  rw [later, updateBytes_append]

/-- The responses sent before do not enter an update. -/
theorem updateBytes_sending (o : List Response) :
    (s.sending o).updateBytes d p =
      ((s.updateBytes d p).1.sending o, (s.updateBytes d p).2) := by
  have moved := updateBytes_within d p (s.sending o) s
  rw [← within_updateBytes d p s]
  exact moved

theorem updated_sending (o : List Response) :
    (s.sending o).updated d p = (s.updated d p).sending o := by
  rw [State.updated, updateBytes_sending, State.updated]
  rfl

/-- What two updates need of the counter is what one of the joined bytes needs. -/
theorem canIssue_split {m n : Nat} (range : canIssue s.ctr (blocksNeeded s.resn.toNat (m + n))) :
    canIssue s.ctr (blocksNeeded s.resn.toNat m) ∧
      canIssue (inc32 s.ctr (blocksNeeded s.resn.toNat m))
        (blocksNeeded ((s.resn.toNat + m) % 16) n) := by
  rw [blocksNeeded_add _ _ _ s.resn.isLt] at range
  have first : canIssue s.ctr (blocksNeeded s.resn.toNat m) :=
    (Nat.add_le_add_left (Nat.le_add_right _ _) _).trans range
  refine ⟨first, ?_⟩
  rw [canIssue, blockCounter_inc32, toNat_blockCounter_add _ _ first, Nat.add_assoc]
  exact range

theorem updated_canIssue
    (range : canIssue s.ctr (blocksNeeded s.resn.toNat (p.length + q.length))) :
    canIssue (s.updated d p).ctr (blocksNeeded (s.updated d p).resn.toNat q.length) := by
  have ctr : (s.updated d p).ctr = _ := updateBytes_ctr d p s
  have resn : (s.updated d p).resn.toNat = _ := updateBytes_resn d p s
  rw [ctr, resn]
  exact (canIssue_split range).2

theorem sending_sending (o o' : List Response) : (s.sending o).sending o' = s.sending o' := rfl

/-- A second update leaves the state of one update of the joined bytes, and a response of its
own. -/
theorem update_updated (o : List Response)
    (range : canIssue s.ctr (blocksNeeded s.resn.toNat (p.length + q.length))) :
    ((s.updated d p).sending o).update d q =
      (s.updated d (p ++ q)).sending (o ++ [okResponse ((s.updated d p).updateBytes d q).2]) := by
  rw [update_eq_updated (s := (s.updated d p).sending o) (.inr rfl) (.inr rfl)
    (updated_canIssue range), updated_sending, updateBytes_sending, updated_updated,
    sending_sending]
  rfl

end

/-- Settles O44: both cuts leave `updated` of the joined bytes, and the responses do not enter
it. -/
theorem splitOfAnUpdateDoesNotShow : Obligations.SplitOfAnUpdateDoesNotShow := by
  intro d p q s opened dir range
  have joined : canIssue s.ctr (blocksNeeded s.resn.toNat (p ++ q).length) := by
    rwa [List.length_append]
  refine ⟨_, _, _, (s.updateBytes d p).2, ((s.updated d p).updateBytes d q).2,
    (exec_updateInstr d p s).trans
      (congrArg _ (update_eq_updated opened dir (canIssue_split range).1)),
    (exec_updateInstr d q _).trans (congrArg _ (update_updated _ range)),
    (exec_updateInstr d _ s).trans (congrArg _ (update_eq_updated opened dir joined)),
    rfl, rfl, ?_, rfl⟩
  rw [updated_output]
  rfl

/-! ### Decryption retraces encryption (R156) -/

/-- The output byte of encryption, combined again, is the input byte, and RES takes the same
byte. -/
theorem updateByte_dec_enc (s : State) (x : Byte) :
    s.updateByte .dec (s.updateByte .enc x).2 = ((s.updateByte .enc x).1, x) := by
  have back (k : Byte) : x ^^^ k ^^^ k = x := by
    rw [BitVec.xor_assoc, BitVec.xor_self, BitVec.xor_zero]
  simp only [updateByte_eq, cipherByte, back]

theorem updateBytes_dec_enc (p : List Byte) (s : State) :
    s.updateBytes .dec (s.updateBytes .enc p).2 = ((s.updateBytes .enc p).1, p) := by
  induction p generalizing s with
  | nil => rfl
  | cons x xs ih => simp only [updateBytes_cons, updateByte_dec_enc, ih]

/-- Settles O45: the input of decryption is the output of encryption, so both put the same bytes
into RES and go through the same states. -/
theorem decryptionRetracesEncryption : Obligations.DecryptionRetracesEncryption := by
  intro p s opened dir range
  have back := updateBytes_dec_enc p s
  have length := updateBytes_length .enc p s
  have range' : canIssue s.ctr (blocksNeeded s.resn.toNat (s.updateBytes .enc p).2.length) := by
    rwa [length]
  have dec := update_eq_updated (d := .dec) opened (.inl dir) range'
  rw [State.updated, back, length] at dec
  exact ⟨_, _, _,
    (exec_updateInstr .enc p s).trans (congrArg _ (update_eq_updated opened (.inl dir) range)), rfl,
    (exec_updateInstr .dec _ s).trans (congrArg _ dec), rfl, rfl⟩

/-! ### Whole messages (R163) -/

theorem runCommands_append (is js : List Instr) (s t : State) (h : runCommands is s = .next t) :
    runCommands (is ++ js) s = runCommands js t := by
  induction is generalizing s with
  | nil => cases h; rfl
  | cons i is ih =>
    obtain ⟨u, hu, -⟩ := exec_ending i s
    rw [runCommands_cons i is s u hu] at h
    rw [List.cons_append, runCommands_cons i _ s u hu, ih u h]

/-- Any number of updates answer with the output of one update of the joined bytes, in pieces, and
leave a stream with its tag. -/
theorem runCommands_updates (d : Direction) (parts : List (List Byte)) (s : State)
    (opened : s.streamOpen) (dir : s.directionFree d)
    (range : canIssue s.ctr (blocksNeeded s.resn.toNat parts.flatten.length)) :
    ∃ (u : State) (outs : List (List Byte)),
      runCommands (parts.map (updateInstr d)) s = .next u ∧ u.streamOpen ∧
      u.closeTag = (s.updated d parts.flatten).closeTag ∧
      outs.map List.length = parts.map List.length ∧
      outs.flatten = (s.updateBytes d parts.flatten).2 ∧
      u.outbox = s.outbox ++ outs.map okResponse := by
  induction parts generalizing s with
  | nil =>
    have none_added : (s.updated d []).ctlen = s.ctlen := BitVec.add_zero _
    have tag : (s.updated d []).closeTag =
        fold s.h s.closingAcc (lenBlock s.aadlen (s.updated d []).ctlen) ^^^ s.tmask := rfl
    refine ⟨s, [], rfl, opened, ?_, rfl, rfl, (List.append_nil _).symm⟩
    rw [List.flatten_nil, tag, none_added]
    rfl
  | cons p parts ih =>
    rw [List.flatten_cons, List.length_append] at range
    have first := update_eq_updated opened dir (canIssue_split range).1
    obtain ⟨u, outs, ran, opened', tag, lengths, output, sent⟩ := ih
      ((s.updated d p).sending (s.outbox ++ [okResponse (s.updateBytes d p).2]))
      (.inr rfl) (.inr rfl) (updated_canIssue range)
    rw [updated_sending, updated_updated] at tag
    rw [updateBytes_sending] at output
    refine ⟨u, (s.updateBytes d p).2 :: outs, ?_, opened', tag, ?_, ?_, ?_⟩
    · rw [List.map_cons, runCommands_cons _ _ s _ (exec_updateInstr d p s), first, ran]
    · rw [List.map_cons, List.map_cons, lengths, updateBytes_length]
    · rw [List.flatten_cons, List.flatten_cons, output, updated_output]
    · rw [sent, List.map_cons]
      exact List.append_assoc _ _ _

/-- The tag of a stream that began at a boundary (R161, R163). -/
theorem closeTag_updated (d : Direction) (p : List Byte) (s : State) (start : s.AtBoundary) :
    (s.updated d p).closeTag =
      fold s.h (foldBytes s.h s.acc (cipherBytes d p (s.updateBytes d p).2))
        (lenBlock s.aadlen (s.ctlen + BitVec.ofNat 64 p.length)) ^^^ s.tmask := by
  have closing := updateBytes_closingAcc d p s start
  have tag : (s.updated d p).closeTag =
      fold (s.updateBytes d p).1.h (s.updateBytes d p).1.closingAcc
          (lenBlock (s.updateBytes d p).1.aadlen
            ((s.updateBytes d p).1.ctlen + BitVec.ofNat 64 p.length))
        ^^^ (s.updateBytes d p).1.tmask := rfl
  obtain ⟨ctr, ks, res, resn, acc, frame⟩ := updateBytes_frame d p s
  rw [tag, closing, frame]

/-- The tag mask takes one block, so a message may take all counter blocks but two (R112, R152). -/
theorem canIssue_seedBlock (nonce : Nonce) (n : Nat) (h : n ≤ 16 * (2 ^ 32 - 2)) :
    canIssue (seedBlock nonce) (blocksNeeded 0 n) := by
  have seed : (blockCounter (seedBlock nonce)).toNat = 1 := by
    rw [seedBlock, blockCounter_append]
    rfl
  rw [canIssue, seed, blocksNeeded_eq 0 n (by omega), blockCount, blockCount, counterTop]
  omega

section
variable (a : BitVec 8) (len : BitVec 48) (key : List Byte) (nonce : Nonce) (aad : List Byte)

/-- The state in which GCM_INIT with a legal key leaves the engine (R151). -/
def State.messageBegun (s : State) : State :=
  (s.wiped.startMessage a len key nonce aad).respond .ok []

variable (s : State)

theorem atBoundary_messageBegun : (s.messageBegun a len key nonce aad).AtBoundary := ⟨rfl, rfl⟩

variable (hkey : key.length = a.toNat)
include hkey

/-- GCM_INIT puts the key of the message into force. -/
theorem encrypt_messageBegun (b : Block) :
    (s.messageBegun a len key nonce aad).encrypt b =
      encryptBlock (keySchedule key).erk (keySchedule key).nr b :=
  encrypt_loadKey a key s.wiped hkey b

theorem keystream_messageBegun (n : Nat) :
    (s.messageBegun a len key nonce aad).keystream (blockCount n) =
      gcmKeystream (keySchedule key) (seedBlock nonce) n := by
  have ctr : (s.messageBegun a len key nonce aad).ctr = seedBlock nonce := rfl
  rw [State.keystream, ctr, issuedBlocks, List.map_map, gcmKeystream]
  simp only [Function.comp_def, encrypt_messageBegun a len key nonce aad s hkey]

/-- The tag of a message in closed form (R163). -/
theorem closeTag_message (hlen : aad.length = len.toNat) (d : Direction) (p : List Byte) :
    ((s.messageBegun a len key nonce aad).updated d p).closeTag =
      gcmTag (keySchedule key) nonce aad
        (cipherBytes d p ((s.messageBegun a len key nonce aad).updateBytes d p).2) := by
  have encrypt := encrypt_messageBegun a len key nonce aad s hkey
  have subkey : (s.messageBegun a len key nonce aad).h = gcmSubkey (keySchedule key) := encrypt 0
  have mask : (s.messageBegun a len key nonce aad).tmask = _ := encrypt (seedBlock nonce)
  have acc : (s.messageBegun a len key nonce aad).acc =
      foldBytes (s.messageBegun a len key nonce aad).h 0 aad := rfl
  have aadlen : (s.messageBegun a len key nonce aad).aadlen = BitVec.ofNat 64 aad.length := by
    rw [hlen, BitVec.ofNat_toNat]
    rfl
  have ctlen (n : BitVec 64) : (s.messageBegun a len key nonce aad).ctlen + n = n :=
    BitVec.zero_add n
  rw [closeTag_updated d p _ (atBoundary_messageBegun a len key nonce aad s), acc,
    subkey, mask, aadlen, ctlen, gcmTag, cipherBytes_length d p _ (updateBytes_length d p _)]

/-- A message up to its closing: the outputs join to the text of the other side, and the tag that
closing would give is the closed form of the ciphertext. -/
theorem runCommands_message (legal : keyLengthLegal a) (hlen : aad.length = len.toNat)
    (d : Direction) (parts : List (List Byte)) (limit : parts.flatten.length ≤ 16 * (2 ^ 32 - 2)) :
    ∃ (u : State) (outs : List (List Byte)),
      runCommands ([.gcmInit a len key nonce aad] ++ parts.map (updateInstr d)) s = .next u ∧
      u.streamOpen ∧
      u.closeTag =
        gcmTag (keySchedule key) nonce aad (cipherBytes d parts.flatten outs.flatten) ∧
      outs.map List.length = parts.map List.length ∧
      outs.flatten = gcmText (keySchedule key) nonce parts.flatten ∧
      u.outbox = s.outbox ++ [okResponse []] ++ outs.map okResponse := by
  have init : exec (.gcmInit a len key nonce aad) s =
      .next (s.messageBegun a len key nonce aad) :=
    exec_gcmInit_of_legal_length a len key nonce aad s legal
  obtain ⟨u, outs, ran, opened, tag, lengths, output, sent⟩ :=
    runCommands_updates d parts (s.messageBegun a len key nonce aad) (.inl rfl) (.inl rfl)
      (canIssue_seedBlock nonce _ limit)
  rw [closeTag_message a len key nonce aad s hkey hlen, ← output] at tag
  refine ⟨u, outs, ?_, opened, tag, lengths, ?_, sent⟩
  · rw [List.singleton_append, runCommands_cons _ _ s _ init, ran]
  · rw [output, updateBytes_output d _ _ (atBoundary_messageBegun a len key nonce aad s),
      keystream_messageBegun a len key nonce aad s hkey, gcmText]

end

/-- Settles O46: GCM_FINAL answers with the leftmost bytes of the tag of the message. -/
theorem encryptedMessageIsGcm : Obligations.EncryptedMessageIsGcm := by
  intro a t len key nonce aad parts s hkey legal hlen _ limit h1 h16
  obtain ⟨u, outs, ran, opened, tag, lengths, output, sent⟩ :=
    runCommands_message a len key nonce aad s hkey legal hlen .enc parts limit
  have final : exec (.gcmFinal t) u =
      .next (u.closed.respond .ok (tagBytes t.toNat u.closeTag)) :=
    (exec_gcmFinal t u).trans (closeCommand_of_open t _ u h1 h16 opened)
  refine ⟨_, outs, (runCommands_append _ _ s u ran).trans (runCommands_cons _ _ u _ final),
    lengths, output, ?_⟩
  rw [tag, State.respond_outbox]
  exact congrArg (· ++ _) sent

/-- Settles O47: GCM_VERIFY compares with the leftmost bytes of the tag of the message. -/
theorem decryptedMessageIsVerified : Obligations.DecryptedMessageIsVerified := by
  intro a t len key nonce aad tag parts s hkey legal hlen _ limit h1 h16 length
  obtain ⟨u, outs, ran, opened, closing, lengths, output, sent⟩ :=
    runCommands_message a len key nonce aad s hkey legal hlen .dec parts limit
  have verify : exec (.gcmVerify t tag) u = .next (u.closed.respond (verdict t tag u) []) :=
    (exec_gcmVerify t tag u).trans (closeCommand_of_open t _ u h1 h16 opened)
  refine ⟨_, outs, verdict t tag u,
    (runCommands_append _ _ s u ran).trans (runCommands_cons _ _ u _ verify),
    lengths, output, ?_, ?_⟩
  · rw [verdict_eq t tag u h16 length, closing]
    rfl
  · exact congrArg (· ++ _) sent

end Sys2Proof.Machine
